-- ==== Sys2Proof/Word.lean ====
section
/-! DEFINITION. Word.lean: the widths of the block's data.
A register is 32 bits (10_state.md section 2), an RC5 word 16 bits (40 R100), a buffer cell one byte. -/

namespace Sys2Proof

/-- A 32-bit register or host access (10_state.md section 2, 20_memory.md R62). -/
abbrev Word := BitVec 32

/-- A 16-bit word of the RC5 engine (40_lightweight_cipher.md R100). -/
abbrev Half := BitVec 16

/-- A byte of a buffer, key, seed or tag (20_memory.md R63). -/
abbrev Byte := BitVec 8

/-- A 16-byte string: a key, a counter block or a beacon mask (00_scope.md R8). -/
abbrev Bytes16 := Vector Byte 16

end Sys2Proof
end

