-- ==== Sys2Proof/Syntax.lean ====
section
/-! DEFINITION. Syntax.lean: the commands of the opcode map (30_encoding.md R81), one constructor per row. -/

namespace Sys2Proof

/-- A command. No command carries an operand: all operands are registers and buffers (30_encoding.md R80, R85). -/
inductive Instr where
  /-- RC5_SETKEY (40 R101). -/
  | rc5SetKey
  /-- RC5_DECRYPT (40 R104). -/
  | rc5Decrypt
  /-- RC5_ENCRYPT (40 R106). -/
  | rc5Encrypt
  /-- CTR_ENCRYPT (41 R144). -/
  | ctrEncrypt
  /-- CTR_DECRYPT (41 R147). -/
  | ctrDecrypt
  /-- BCN_VOTE (42 R181). -/
  | bcnVote
  /-- BCN_DECODE (42 R182). -/
  | bcnDecode
  /-- BCN_SCAN (42 R183). -/
  | bcnScan
  deriving DecidableEq, Repr

end Sys2Proof
end

