-- ==== Sys2Proof/Machine/Bus.lean ====
section
/-! DEFINITION. Machine/Bus.lean: what can reach the block from outside, and the names of the places of its window
(20_memory.md R60 to R63, 10_state.md section 2). -/

namespace Sys2Proof.Machine

/-- Who makes an access. The block serves one host; any other agent is refused (60_exceptions.md R290). -/
inductive Agent where
  | host
  | other
  deriving DecidableEq, Repr

/-- One event at the block's port. Offsets are from BASE and sizes are in bytes. -/
inductive HostAccess where
  /-- A store of `value` (20_memory.md R62; 30_encoding.md R82 when the offset is CMD's). -/
  | store (agent : Agent) (size offset : Nat) (value : Word)
  /-- A load (10_state.md R51 (c)). -/
  | load (agent : Agent) (size offset : Nat)
  /-- An instruction fetch from the window, which has no meaning (20_memory.md R73). -/
  | fetch (agent : Agent) (offset : Nat)
  /-- The platform asserts the block's reset (70_reset_and_hazards.md R300, R301). -/
  | reset
  deriving DecidableEq, Repr

/-- The registers of the map (10_state.md section 2, R23 to R45). -/
inductive Reg where
  | cmd | status | outlen | inlen | outcap | now | bcfg | brssi
  | key0 | key1 | key2 | key3 | ivseed0 | ivseed1 | tag
  | rc5In | rc5Out | bvoteLo | bvoteHi | bproto | bsphere | benc | bdec
  | bfields | btoken | bresv | brssiOut
  deriving DecidableEq, Repr

/-- What stands at an offset of the window (20_memory.md R61). -/
inductive Place where
  | reg (r : Reg)
  /-- A reserved offset, RAZ/WI (10_state.md R51). -/
  | reserved
  /-- A byte offset into IN_BUF. -/
  | inBuf (k : Nat)
  /-- A byte offset into OUT_BUF. -/
  | outBuf (k : Nat)
  /-- Not an offset of the window at all. -/
  | outside
  deriving DecidableEq, Repr

end Sys2Proof.Machine
end

