-- ==== Sys2Proof/WellFormed.lean ====
section
/-! DEFINITION. WellFormed.lean: which command words and which host accesses the spec gives a meaning.
A command has no operand field, so every `Instr` is well-formed; what can be ill-formed is the 32-bit command word
(30_encoding.md R80, R83) and the access that carries it (20_memory.md R62, 60_exceptions.md R290). -/

namespace Sys2Proof

/-- The assigned opcodes (30_encoding.md R81, R83). -/
def assignedOpcodes : List Byte := [0x01, 0x02, 0x03, 0x10, 0x11, 0x20, 0x21, 0x22]

/-- RSVD, bits 31:8 of a command word, is zero (30_encoding.md R80). -/
def rsvdZero (w : Word) : Bool := w.extractLsb' 8 24 == 0

/-- OPC, bits 7:0 of a command word, is assigned (30_encoding.md R81). -/
def opcAssigned (w : Word) : Bool := assignedOpcodes.contains (w.extractLsb' 0 8)

/-- A legal command word (30_encoding.md R83). -/
def legalWord (w : Word) : Bool := rsvdZero w && opcAssigned w

namespace Machine

/-- The bytes of the window (20_memory.md R60). -/
abbrev windowBytes : Nat := 0x4000

/-- An access the spec gives a meaning: by the host, in the window, 32 bits wide, aligned (20_memory.md R60, R62,
R73, 60_exceptions.md R290). Reset needs no more. -/
def HostAccess.wf : HostAccess → Bool
  | .store agent size offset _ => agent == .host && offset < windowBytes && size == 4 && offset % 4 == 0
  | .load agent size offset => agent == .host && offset < windowBytes && size == 4 && offset % 4 == 0
  | .fetch _ _ => false
  | .reset => true

end Machine

end Sys2Proof
end

