-- ==== Sys2Proof/Decode.lean ====
section
/-! DEFINITION. Decode.lean: the command word's decoder and encoder (30_encoding.md R80 to R84). -/

namespace Sys2Proof

/-- Why a command word or byte string is no command. Each of the first three is IllegalCommand on the block
(30_encoding.md R83); `truncated` concerns byte strings only. -/
inductive DecodeReject where
  /-- RSVD is not zero. -/
  | reservedBits
  /-- An opcode reserved for later commands (30_encoding.md R84). -/
  | reservedOpcode
  /-- An opcode that is neither assigned nor reserved by name (30_encoding.md R83, R84). -/
  | unassignedOpcode
  /-- Fewer than the four bytes of a command word. -/
  | truncated
  deriving DecidableEq, Repr

/-- One row of the opcode map: a word `w` selects it when `w &&& mask = value` (30_encoding.md R81). -/
structure OpcodeRow where
  mask : Word
  value : Word
  instr : Instr
  deriving DecidableEq, Repr

/-- The opcode map (30_encoding.md R81): mask 0xFFFFFFFF in every row. -/
def opcodeTable : List OpcodeRow :=
  [ ⟨0xFFFFFFFF, 0x00000001, .rc5SetKey⟩,
    ⟨0xFFFFFFFF, 0x00000002, .rc5Decrypt⟩,
    ⟨0xFFFFFFFF, 0x00000003, .rc5Encrypt⟩,
    ⟨0xFFFFFFFF, 0x00000010, .ctrEncrypt⟩,
    ⟨0xFFFFFFFF, 0x00000011, .ctrDecrypt⟩,
    ⟨0xFFFFFFFF, 0x00000020, .bcnVote⟩,
    ⟨0xFFFFFFFF, 0x00000021, .bcnDecode⟩,
    ⟨0xFFFFFFFF, 0x00000022, .bcnScan⟩ ]

/-- A row selects a word. -/
def OpcodeRow.selects (r : OpcodeRow) (w : Word) : Bool := (w &&& r.mask) == r.value

/-- The opcodes R84 reserves: 0x04 to 0x0F, 0x12 to 0x1F, 0x23 to 0x2F. -/
def reservedOpcodeRange (opc : Nat) : Bool :=
  (0x04 ≤ opc && opc ≤ 0x0F) || (0x12 ≤ opc && opc ≤ 0x1F) || (0x23 ≤ opc && opc ≤ 0x2F)

/-- The name of the reason a word outside the map is rejected (30_encoding.md R83, R84). -/
def rejectReason (w : Word) : DecodeReject :=
  if w.extractLsb' 8 24 ≠ 0 then .reservedBits
  else if reservedOpcodeRange (w.extractLsb' 0 8).toNat then .reservedOpcode
  else .unassignedOpcode

/-- Decodes a command word: the row whose command word equals it, or a rejection by name (30_encoding.md R81, R82). -/
def decode (w : Word) : Except DecodeReject Instr :=
  match opcodeTable.find? (·.selects w) with
  | some r => .ok r.instr
  | none => .error (rejectReason w)

/-- The 32-bit word of four bytes in lane order, the byte of lane 0 first (20_memory.md R63). -/
def wordOfLanes (b0 b1 b2 b3 : Byte) : Word := b3 ++ b2 ++ b1 ++ b0

/-- Decodes a command from bytes in the window's lane order and gives the bytes left over. -/
def decodeBytes : List Byte → Except DecodeReject (Instr × List Byte)
  | b0 :: b1 :: b2 :: b3 :: rest =>
    match decode (wordOfLanes b0 b1 b2 b3) with
    | .ok i => .ok (i, rest)
    | .error e => .error e
  | _ => .error .truncated

/-- The command word of a command (30_encoding.md R81). -/
def encode : Instr → Word
  | .rc5SetKey => 0x00000001
  | .rc5Decrypt => 0x00000002
  | .rc5Encrypt => 0x00000003
  | .ctrEncrypt => 0x00000010
  | .ctrDecrypt => 0x00000011
  | .bcnVote => 0x00000020
  | .bcnDecode => 0x00000021
  | .bcnScan => 0x00000022

/-- The bytes of a word, lane 0 first (20_memory.md R63). -/
def lanesOfWord (w : Word) : List Byte :=
  [w.extractLsb' 0 8, w.extractLsb' 8 8, w.extractLsb' 16 8, w.extractLsb' 24 8]

/-- The command word of a command as bytes in lane order. -/
def encodeBytes (i : Instr) : List Byte := lanesOfWord (encode i)

/-- The command the decoder reads from a word of `nbits` bits numbered as spec/opcode_table.json numbers them: its
32 bits are laid out in lane order and given to `decodeBytes`; bits at and above `nbits` are zero. -/
def decodeTableWord (nbits w : Nat) : Option Instr :=
  match decodeBytes (lanesOfWord (BitVec.ofNat 32 (w % 2 ^ nbits))) with
  | .ok (i, _) => some i
  | .error _ => none

end Sys2Proof
end

