-- ==== Sys2Proof/Config.lean ====
section
/-! DEFINITION. Config.lean: the parameters the spec leaves open (00_scope.md R8, 93 section 3) and the free values.
Every constant here is opaque: no proof can learn a value of it, so a claim holds for every choice. -/

namespace Sys2Proof.Config

/-- `E(key, block)`, the external AES block primitive (00_scope.md R8; log entry 6). -/
opaque E : Bytes16 → Bytes16 → Bytes16

/-- COMPANY_ID, the expected 16-bit company identifier (00_scope.md R8, 42 R186; log entry 7). -/
opaque companyId : BitVec 16

/-- BASE divided by 0x4000: BASE is a multiple of 0x4000 (00_scope.md R8; log entry 8). -/
opaque baseIndex : Nat

/-- BASE, the block's address in the host's address space (00_scope.md R8; log entry 8). -/
def base : Nat := 0x4000 * baseIndex

/-- The draw of R54: `resetDraw n a` is the byte that the cell at window offset `a` holds after the `n`-th
reset until it is written (10_state.md R54; log entry 4). -/
opaque resetDraw : Nat → Nat → Byte

/-- DEFAULT_TAG of the host's no-session mode (45 R236, R237, D49; log entry 17). -/
opaque defaultTag : Vector Byte 4

/-- MESH_TAG, the validation tag of mesh packets (45 R245, D48; log entry 17). -/
opaque meshTag : Vector Byte 4

/-- How a host wrapper packs a 4-byte block into RC5_IN (45 R249, D9; log entry 17). -/
opaque packBlock : Vector Byte 4 → Word

/-- The encryption buffer length of mode GuestEcb, which the source leaves open (45 R246, D50; log entry 17). -/
opaque guestEcbEncryptionLength : Nat → Nat

/-- The encryption buffer length of mode GuestEcbWithDefaultTag, open and not tied to GuestEcb's (45 R246, D50;
log entry 17). -/
opaque guestEcbTagEncryptionLength : Nat → Nat

/-- The decryption buffer length of mode GuestEcb, which the source leaves open (45 R246, D50; log entry 17). -/
opaque guestEcbDecryptionLength : Nat → Nat

/-- The decryption buffer length of mode GuestEcbWithDefaultTag, open and not tied to GuestEcb's (45 R246, D50;
log entry 17). -/
opaque guestEcbTagDecryptionLength : Nat → Nat

end Sys2Proof.Config
end

