-- ==== Sys2Proof/Machine/State.lean ====
section
/-! DEFINITION. Machine/State.lean: the block's architectural state (10_state.md R20), its value after reset
(10_state.md R53, 70_reset_and_hazards.md R300), and the reasons a step can stop.
A register is held by exactly its defined bits: bits marked RAZ/WI are not stored (10_state.md R51 (a)). -/

namespace Sys2Proof.Machine

/-- The outcomes STATUS.ERRCODE names (10_state.md R25). Codes 8 to 15 are never produced. -/
inductive ErrCode where
  | ok
  | invalidLength
  /-- Raised by the host only (45_host_services.md R239). -/
  | keyUnavailable
  | validationFailed
  | notFound
  /-- Raised by the host only (45_host_services.md R244). -/
  | unsupported
  | illegalCommand
  | notKeyed
  deriving DecidableEq, Repr

/-- The drop reasons STATUS.DROP names (10_state.md R25). Codes 5 to 7 are never produced. -/
inductive DropReason where
  | noDrop
  /-- 1: no manufacturer-specific field of the expected company id, type and length (42 R190). -/
  | noField
  /-- 2: protocol field 2 or 3 (42 R194). -/
  | protocol
  /-- 3: the sphere id differs from BCFG.SPHERE (42 R195). -/
  | sphere
  /-- 4: the time word is outside the window and not the sentinel (42 R197). -/
  | time
  deriving DecidableEq, Repr

/-- The fields of STATUS (10_state.md R24). -/
structure Status where
  err : ErrCode
  keyed : Bool
  trunc : Bool
  bvalid : Bool
  drop : DropReason
  deriving DecidableEq, Repr

/-- The ten beacon result registers (10_state.md R37 to R45), BFIELDS by its four fields (R42). -/
structure BeaconRegs where
  voteLo : Word
  voteHi : BitVec 10
  proto : BitVec 2
  sphere : Byte
  enc : Word
  dec : Word
  loc : BitVec 6
  prof : BitVec 3
  off : BitVec 4
  flags : BitVec 3
  token : BitVec 24
  resv : Half
  rssiOut : Byte
  deriving DecidableEq, Repr

/-- The state of the block (10_state.md R20), with the three fields of the model's own that stand last. -/
structure State where
  /-- CMD (R23). -/
  cmd : Word
  /-- STATUS (R24). -/
  status : Status
  /-- OUTLEN.N (R26). -/
  outlen : BitVec 13
  /-- INLEN.N (R27). -/
  inlen : BitVec 13
  /-- OUTCAP.N (R28). -/
  outcap : BitVec 13
  /-- NOW.SECONDS (R29). -/
  now : Word
  /-- BCFG.SPHERE (R30). -/
  bcfg : Byte
  /-- BRSSI.RSSI (R31). -/
  brssi : Byte
  /-- KEY0 (R32). -/
  key0 : Word
  /-- KEY1 (R32). -/
  key1 : Word
  /-- KEY2 (R32). -/
  key2 : Word
  /-- KEY3 (R32). -/
  key3 : Word
  /-- IVSEED0 (R33). -/
  ivseed0 : Word
  /-- IVSEED1 (R33). -/
  ivseed1 : Word
  /-- TAG (R34). -/
  tag : Word
  /-- RC5_IN (R35). -/
  rc5In : Word
  /-- RC5_OUT (R36). -/
  rc5Out : Word
  /-- BVOTE_LO to BRSSI_OUT (R37 to R45). -/
  bcn : BeaconRegs
  /-- The subkey table S[0..25] (R48). -/
  subkeys : Vector Half 26
  /-- The bytes of IN_BUF and OUT_BUF written since reset, by window offset (R46, R47, R54). -/
  mem : List Host.Cell
  /-- MODEL: the host's accesses not yet performed, oldest first (log entry 1). -/
  pending : List HostAccess
  /-- MODEL: the words the host's loads have returned, oldest first (log entry 3). -/
  answers : List Word
  /-- MODEL: platform resets since `State.reset`, the argument that makes each reset's draw fresh (log entry 4). -/
  draws : Nat
  deriving DecidableEq, Repr

/-- Why the machine stops. -/
inductive Fault where
  /-- Raised by the host port for an access at an offset that is not in the 16 KiB window (20_memory.md R60).
  Safe: the address does not exist for the block. -/
  | outsideWindow
  deriving DecidableEq, Repr

/-- Why the model gives no step. -/
inductive Refusal where
  /-- Raised by an arm of `exec` for an instruction not modelled yet. Safe. -/
  | notModelled (mnemonic : String)
  /-- Raised by the host port for a byte, halfword or other access that is not 32 bits wide (20_memory.md R62).
  Safe: the spec says a model refuses it. -/
  | accessSize
  /-- Raised by the host port for a misaligned access (20_memory.md R62). Safe: the spec says a model refuses it. -/
  | misaligned
  /-- Raised by the host port for an access by a second agent (60_exceptions.md R290). Safe: the spec says a model
  refuses that configuration. -/
  | secondAgent
  /-- Raised by the host port for an instruction fetch from the window (20_memory.md R73, U22). Safe: the spec gives
  it no meaning. -/
  | executeFromWindow
  deriving DecidableEq, Repr

/-- STATUS after reset (70_reset_and_hazards.md R300). -/
def Status.reset : Status :=
  { err := .ok, keyed := false, trunc := false, bvalid := false, drop := .noDrop }

/-- Every beacon result register 0 (42_beacon_decoder.md R184, 70_reset_and_hazards.md R300). -/
def BeaconRegs.zero : BeaconRegs :=
  { voteLo := 0, voteHi := 0, proto := 0, sphere := 0, enc := 0, dec := 0, loc := 0, prof := 0, off := 0,
    flags := 0, token := 0, resv := 0, rssiOut := 0 }

/-- The state right after reset (10_state.md R53, 70_reset_and_hazards.md R300). The subkey table has no reset value
in the spec: zero in each word is a DESIGN CHOICE (log entry 5). Nothing is listed in memory, so every buffer byte
reads as its draw (log entry 4). No access is waiting (log entry 1). -/
def State.reset : State :=
  { cmd := 0, status := Status.reset, outlen := 0, inlen := 0, outcap := 0, now := 0, bcfg := 0, brssi := 0,
    key0 := 0, key1 := 0, key2 := 0, key3 := 0, ivseed0 := 0, ivseed1 := 0, tag := 0, rc5In := 0, rc5Out := 0,
    bcn := BeaconRegs.zero, subkeys := Vector.replicate 26 0, mem := [], pending := [], answers := [], draws := 0 }

/-- Replaces CMD. -/
def State.setCmd (w : Word) (s : State) : State := { s with cmd := w }

/-- Replaces STATUS and OUTLEN together: what ends a command (60_exceptions.md R272 to R274). -/
def State.setResult (st : Status) (n : BitVec 13) (s : State) : State := { s with status := st, outlen := n }

/-- Replaces RC5_OUT. -/
def State.setRc5Out (w : Word) (s : State) : State := { s with rc5Out := w }

/-- Replaces the beacon result registers. -/
def State.setBcn (b : BeaconRegs) (s : State) : State := { s with bcn := b }

/-- Replaces the subkey table. -/
def State.setSubkeys (t : Vector Half 26) (s : State) : State := { s with subkeys := t }

/-- Sets STATUS.KEYED. -/
def State.setKeyed (b : Bool) (s : State) : State := { s with status := { s.status with keyed := b } }

/-- Replaces the buffers' contents. -/
def State.setMem (m : List Host.Cell) (s : State) : State := { s with mem := m }

/-- Replaces the waiting accesses. -/
def State.setPending (l : List HostAccess) (s : State) : State := { s with pending := l }

/-- Appends a loaded word to the host's answers. -/
def State.addAnswer (w : Word) (s : State) : State := { s with answers := s.answers ++ [w] }

end Sys2Proof.Machine
end

