-- ==== Sys2Proof/Machine/Flags.lean ====
section
/-! DEFINITION. Machine/Flags.lean: the STATUS register's codes and layout (10_state.md R24, R25) and the STATUS each
outcome writes (60_exceptions.md R272 to R274). -/

namespace Sys2Proof.Machine

/-- The number of an outcome in STATUS.ERRCODE (10_state.md R25). -/
def errCodeBits : ErrCode → BitVec 4
  | .ok => 0
  | .invalidLength => 1
  | .keyUnavailable => 2
  | .validationFailed => 3
  | .notFound => 4
  | .unsupported => 5
  | .illegalCommand => 6
  | .notKeyed => 7

/-- The number of a drop reason in STATUS.DROP (10_state.md R25). -/
def dropBits : DropReason → BitVec 3
  | .noDrop => 0
  | .noField => 1
  | .protocol => 2
  | .sphere => 3
  | .time => 4

/-- STATUS as the host reads it (10_state.md R24): DROP [10:8], BVALID [6], TRUNC [5], KEYED [4], ERRCODE [3:0];
bits 7 and 31:11 read 0. -/
def statusWord (st : Status) : Word :=
  0#21 ++ dropBits st.drop ++ 0#1 ++ BitVec.ofBool st.bvalid ++ BitVec.ofBool st.trunc ++ BitVec.ofBool st.keyed
    ++ errCodeBits st.err

/-- BFIELDS as the host reads it (10_state.md R42): FLAGS [18:16], OFF [15:12], PROF [10:8], LOC [5:0]. -/
def bfieldsWord (b : BeaconRegs) : Word := 0#13 ++ b.flags ++ b.off ++ 0#1 ++ b.prof ++ 0#2 ++ b.loc

/-- The STATUS an error leaves (60_exceptions.md R272). -/
def errorStatus (e : ErrCode) (st : Status) : Status :=
  { err := e, keyed := st.keyed, trunc := false, bvalid := false, drop := .noDrop }

/-- The STATUS a drop leaves: ERRCODE is NotFound (60_exceptions.md R273). -/
def dropStatus (d : DropReason) (st : Status) : Status :=
  { err := .notFound, keyed := st.keyed, trunc := false, bvalid := false, drop := d }

/-- The STATUS success leaves (60_exceptions.md R274). -/
def completeStatus (trunc bvalid : Bool) (st : Status) : Status :=
  { err := .ok, keyed := st.keyed, trunc := trunc, bvalid := bvalid, drop := .noDrop }

end Sys2Proof.Machine
end

