-- ==== Sys2Proof/Machine/Operands.lean ====
section
/-! DEFINITION. Machine/Operands.lean: operand assembly (30_encoding.md R85), byte lanes (20_memory.md R63, R64) and
the rotations of the RC5 engine (00_scope.md R11). -/

namespace Sys2Proof.Machine

/-- `ROTL16(x, s)`: rotation left by `s mod 16` (00_scope.md R11, 40 R100). -/
def rotl16 (x s : Half) : Half := x.rotateLeft (s.toNat % 16)

/-- `ROTR16(x, s)`: rotation right by `s mod 16` (00_scope.md R11, 40 R100). -/
def rotr16 (x s : Half) : Half := x.rotateRight (s.toNat % 16)

/-- Byte lane `j` of a word: bits [8j+7 : 8j] (20_memory.md R63). -/
def lane (w : Word) (j : Nat) : Byte := w.extractLsb' (8 * j) 8

/-- The word of four byte lanes, lane 0 in bits [7:0] (20_memory.md R63). -/
def wordOfBytes (b0 b1 b2 b3 : Byte) : Word := b3 ++ b2 ++ b1 ++ b0

/-- The low half of a word: W0, E0 or D0 (10_state.md R35, R36, R40, R41). -/
def lowHalf (w : Word) : Half := w.extractLsb' 0 16

/-- The high half of a word: W1, E1 or D1 (10_state.md R35, R36, R40, R41). -/
def highHalf (w : Word) : Half := w.extractLsb' 16 16

/-- `{hi, lo}` as a register (00_scope.md R10). -/
def wordOfHalves (lo hi : Half) : Word := hi ++ lo

/-- KEY(i). -/
def keyReg (s : State) : Nat → Word
  | 0 => s.key0
  | 1 => s.key1
  | 2 => s.key2
  | _ => s.key3

/-- K[0..16): byte K[k] is lane k mod 4 of KEY(k div 4) (10_state.md R32). -/
def keyBytes (s : State) : Bytes16 := Vector.ofFn fun k : Fin 16 => lane (keyReg s (k.val / 4)) (k.val % 4)

/-- IVSEED(i). -/
def seedReg (s : State) : Nat → Word
  | 0 => s.ivseed0
  | _ => s.ivseed1

/-- N[0..8): byte N[j] is lane j mod 4 of IVSEED(j div 4) (10_state.md R33). -/
def seedBytes (s : State) : Vector Byte 8 := Vector.ofFn fun j : Fin 8 => lane (seedReg s (j.val / 4)) (j.val % 4)

/-- T[0..4): byte T[j] is lane j of TAG (10_state.md R34). -/
def tagBytes (s : State) : List Byte := [lane s.tag 0, lane s.tag 1, lane s.tag 2, lane s.tag 3]

/-- `BE64` of the eight bytes of `m` from index 0: byte 0 is bits 63:56 (00_scope.md R11, 42 R191). -/
def be64Left (m : Bytes16) : BitVec 64 := m[0] ++ m[1] ++ m[2] ++ m[3] ++ m[4] ++ m[5] ++ m[6] ++ m[7]

/-- `BE64` of the eight bytes of `m` from index 8 (00_scope.md R11, 42 R191). -/
def be64Right (m : Bytes16) : BitVec 64 := m[8] ++ m[9] ++ m[10] ++ m[11] ++ m[12] ++ m[13] ++ m[14] ++ m[15]

/-- Byte-wise XOR of two byte strings (41 R141). -/
def xorBytes : List Byte → List Byte → List Byte
  | a :: as, b :: bs => (a ^^^ b) :: xorBytes as bs
  | _, _ => []

/-- `zeros(n)`, n zero bytes (41 R142). -/
def zeroBytes (n : Nat) : List Byte := List.replicate n 0

end Sys2Proof.Machine
end

