-- ==== Sys2Proof/Machine/Ops.lean ====
section
/-! DEFINITION. Machine/Ops.lean: the buffers, the register file, the window's map, and the three ways a command ends.
The block has no exception entry and no return (60_exceptions.md R277, R278): `raiseError`, `raiseDrop` and
`complete` (R272 to R274) are the one shared way an outcome is taken. -/

namespace Sys2Proof.Machine

/-- Window offset of IN_BUF byte 0 (20_memory.md R61). -/
abbrev inBase : Nat := 0x1000

/-- Window offset of OUT_BUF byte 0 (20_memory.md R61). -/
abbrev outBase : Nat := 0x2000

/-- The first window offset after OUT_BUF (20_memory.md R61). -/
abbrev bufEnd : Nat := 0x3000

/-- BUF_BYTES, the size of each buffer (00_scope.md R8). -/
abbrev bufBytes : Nat := 4096

/-- What the list holds for an address it does not list: no written byte. This is the one definition of an
unlisted address's content; what such a byte READS as is the draw of R54 (`readByte`, log entries 4 and 15). -/
def unlistedByte : Option Byte := none

/-- The byte the list holds for an address. -/
def memGet : List Host.Cell → Nat → Option Byte
  | [], _ => unlistedByte
  | (k, b) :: m, a => if a = k then some b else memGet m a

/-- Writes one byte, keeping the list's addresses rising. -/
def memSet : List Host.Cell → Nat → Byte → List Host.Cell
  | [], a, v => [(a, v)]
  | (k, b) :: m, a, v =>
    if a < k then (a, v) :: (k, b) :: m
    else if a = k then (a, v) :: m
    else (k, b) :: memSet m a v

/-- Addresses strictly rising from `lo`, all below `bufEnd`. -/
def memRising : Nat → List Host.Cell → Bool
  | _, [] => true
  | lo, (k, _) :: m => lo ≤ k && k < bufEnd && memRising (k + 1) m

/-- The canonical form of memory: addresses of the two buffers only, strictly rising. -/
def Memory.wf (m : List Host.Cell) : Bool := memRising inBase m

/-- Writes a byte string from address `a`. -/
def memWrite : List Host.Cell → Nat → List Byte → List Host.Cell
  | m, _, [] => m
  | m, a, b :: bs => memWrite (memSet m a b) (a + 1) bs

/-- Reads one buffer byte: the byte last written, or the draw this reset fixed (10_state.md R54). -/
def readByte (s : State) (a : Nat) : Byte := (memGet s.mem a).getD (Config.resetDraw s.draws a)

/-- Reads `n` bytes from address `a`. -/
def readBytes (s : State) (a n : Nat) : List Byte := (List.range n).map fun k => readByte s (a + k)

/-- `MemRead(IN_BUF, 0, n)` (00_scope.md R12). -/
def readIn (s : State) (n : Nat) : List Byte := readBytes s inBase n

/-- `MemRead(IN_BUF, 0, 16)` as a 16-byte string (42 R181, R182). -/
def readMask (s : State) : Bytes16 := Vector.ofFn fun k : Fin 16 => readByte s (inBase + k.val)

/-- `MemWrite(OUT_BUF, 0, n, v)` (00_scope.md R12). -/
def writeOut (v : List Byte) (s : State) : State := s.setMem (memWrite s.mem outBase v)

/-- Reads the aligned word at a buffer address, by byte lanes (20_memory.md R63). -/
def readBufWord (s : State) (a : Nat) : Word :=
  wordOfBytes (readByte s a) (readByte s (a + 1)) (readByte s (a + 2)) (readByte s (a + 3))

/-- Writes the aligned word at a buffer address, by byte lanes (20_memory.md R63). -/
def writeBufWord (a : Nat) (w : Word) (s : State) : State :=
  s.setMem (memWrite s.mem a [lane w 0, lane w 1, lane w 2, lane w 3])

/-- The register map (10_state.md section 2): offset and register. -/
def regMap : List (Nat × Reg) :=
  [ (0x000, .cmd), (0x004, .status), (0x008, .outlen), (0x00C, .inlen), (0x010, .outcap), (0x014, .now),
    (0x018, .bcfg), (0x01C, .brssi), (0x020, .key0), (0x024, .key1), (0x028, .key2), (0x02C, .key3),
    (0x030, .ivseed0), (0x034, .ivseed1), (0x038, .tag), (0x040, .rc5In), (0x044, .rc5Out), (0x048, .bvoteLo),
    (0x04C, .bvoteHi), (0x050, .bproto), (0x054, .bsphere), (0x058, .benc), (0x05C, .bdec), (0x060, .bfields),
    (0x064, .btoken), (0x068, .bresv), (0x06C, .brssiOut) ]

/-- The offset of a register (10_state.md R23 to R45). -/
def regOffset : Reg → Nat
  | .cmd => 0x000 | .status => 0x004 | .outlen => 0x008 | .inlen => 0x00C | .outcap => 0x010 | .now => 0x014
  | .bcfg => 0x018 | .brssi => 0x01C | .key0 => 0x020 | .key1 => 0x024 | .key2 => 0x028 | .key3 => 0x02C
  | .ivseed0 => 0x030 | .ivseed1 => 0x034 | .tag => 0x038 | .rc5In => 0x040 | .rc5Out => 0x044
  | .bvoteLo => 0x048 | .bvoteHi => 0x04C | .bproto => 0x050 | .bsphere => 0x054 | .benc => 0x058
  | .bdec => 0x05C | .bfields => 0x060 | .btoken => 0x064 | .bresv => 0x068 | .brssiOut => 0x06C

/-- What stands at a window offset (20_memory.md R61). -/
def placeAt (off : Nat) : Place :=
  if off < inBase then
    match regMap.lookup off with
    | some r => .reg r
    | none => .reserved
  else if off < outBase then .inBuf (off - inBase)
  else if off < bufEnd then .outBuf (off - outBase)
  else if off < 0x4000 then .reserved
  else .outside

/-- The window offset of an address of the host's space, if it lies in the window (20_memory.md R60). -/
def windowOffset (addr : Nat) : Option Nat :=
  if Config.base ≤ addr ∧ addr < Config.base + 0x4000 then some (addr - Config.base) else none

/-- The address of a window offset in the host's space (20_memory.md R60). -/
def hostAddress (off : Nat) : Nat := Config.base + off

/-- The host's 32-bit store to an address of its space; an address outside the window does not reach the block. -/
def storeAt (addr : Nat) (v : Word) : Option HostAccess := (windowOffset addr).map fun off => .store .host 4 off v

/-- The host's 32-bit load from an address of its space; an address outside the window does not reach the block. -/
def loadAt (addr : Nat) : Option HostAccess := (windowOffset addr).map fun off => .load .host 4 off

/-- The word a register reads as (10_state.md R23 to R45): its field zero-extended, reserved bits 0 (R51). -/
def readReg (s : State) : Reg → Word
  | .cmd => s.cmd
  | .status => statusWord s.status
  | .outlen => s.outlen.setWidth 32
  | .inlen => s.inlen.setWidth 32
  | .outcap => s.outcap.setWidth 32
  | .now => s.now
  | .bcfg => s.bcfg.setWidth 32
  | .brssi => s.brssi.setWidth 32
  | .key0 => s.key0
  | .key1 => s.key1
  | .key2 => s.key2
  | .key3 => s.key3
  | .ivseed0 => s.ivseed0
  | .ivseed1 => s.ivseed1
  | .tag => s.tag
  | .rc5In => s.rc5In
  | .rc5Out => s.rc5Out
  | .bvoteLo => s.bcn.voteLo
  | .bvoteHi => s.bcn.voteHi.setWidth 32
  | .bproto => s.bcn.proto.setWidth 32
  | .bsphere => s.bcn.sphere.setWidth 32
  | .benc => s.bcn.enc
  | .bdec => s.bcn.dec
  | .bfields => bfieldsWord s.bcn
  | .btoken => s.bcn.token.setWidth 32
  | .bresv => s.bcn.resv.setWidth 32
  | .brssiOut => s.bcn.rssiOut.setWidth 32

/-- The effect of a store on a register's contents: an RW register takes the value's defined bits, an RO register
ignores it (10_state.md R51 (a), (b)). CMD stores the word unchanged (R23); what the command then does is the host
port's (`issueCommand`). -/
def writeReg (r : Reg) (v : Word) (s : State) : State :=
  match r with
  | .cmd => s.setCmd v
  | .inlen => { s with inlen := v.setWidth 13 }
  | .outcap => { s with outcap := v.setWidth 13 }
  | .now => { s with now := v }
  | .bcfg => { s with bcfg := v.setWidth 8 }
  | .brssi => { s with brssi := v.setWidth 8 }
  | .key0 => { s with key0 := v }
  | .key1 => { s with key1 := v }
  | .key2 => { s with key2 := v }
  | .key3 => { s with key3 := v }
  | .ivseed0 => { s with ivseed0 := v }
  | .ivseed1 => { s with ivseed1 := v }
  | .tag => { s with tag := v }
  | .rc5In => { s with rc5In := v }
  | .status => s
  | .outlen => s
  | .rc5Out => s
  | .bvoteLo => s
  | .bvoteHi => s
  | .bproto => s
  | .bsphere => s
  | .benc => s
  | .bdec => s
  | .bfields => s
  | .btoken => s
  | .bresv => s
  | .brssiOut => s

/-- `raise Error(e)` (60_exceptions.md R272). -/
def raiseError (e : ErrCode) (s : State) : State := s.setResult (errorStatus e s.status) 0

/-- `raise Drop(d)` (60_exceptions.md R273). -/
def raiseDrop (d : DropReason) (s : State) : State := s.setResult (dropStatus d s.status) 0

/-- `complete(outlen = n, trunc, bvalid)` (60_exceptions.md R274). -/
def complete (n : Nat) (trunc bvalid : Bool) (s : State) : State :=
  s.setResult (completeStatus trunc bvalid s.status) (BitVec.ofNat 13 n)

/-- What the platform's reset does to the block (70_reset_and_hazards.md R300): every register takes its reset value
and the buffers take a fresh draw. The host's waiting accesses and answers are the host's (log entry 12). -/
def resetBlock (s : State) : State :=
  { State.reset with pending := s.pending, answers := s.answers, draws := s.draws + 1 }

end Sys2Proof.Machine
end

