-- ==== Sys2Proof/Machine/Rc5.lean ====
section
/-! DEFINITION. Machine/Rc5.lean: the LightweightCipher, RC5-16/12/16 (40_lightweight_cipher.md).
PRESUMED: the algorithm is standard RC5, which the rules mark as general knowledge (log entry 9). -/

namespace Sys2Proof.Machine

/-- P16, the start of the subkey table (40 R102). -/
def magicP : Half := 0xB7E1

/-- Q16, the increment of the subkey table (40 R102). -/
def magicQ : Half := 0x9E37

/-- S[i] before mixing: S[0] = P16 and S[i] = S[i-1] + Q16 (40 R102). -/
def magicSubkey : Nat → Half
  | 0 => magicP
  | i + 1 => magicSubkey i + magicQ

/-- L[i] = K[2i] | K[2i+1] << 8, little-endian key words (40 R102, 20 R64 (c)). -/
def keyWords (K : Bytes16) : Vector Half 8 :=
  Vector.ofFn fun i : Fin 8 => K[2 * i.val + 1] ++ K[2 * i.val]

/-- The variables of the key-mixing loop (40 R102). -/
structure MixState where
  S : Vector Half 26
  L : Vector Half 8
  A : Half
  B : Half
  i : Fin 26
  j : Fin 8
  deriving DecidableEq, Repr

/-- The loop's start (40 R102). -/
def mixStart (K : Bytes16) : MixState :=
  { S := Vector.ofFn fun i : Fin 26 => magicSubkey i.val, L := keyWords K, A := 0, B := 0, i := 0, j := 0 }

/-- One turn of the loop (40 R102); `i` and `j` count modulo 26 and 8. -/
def mixStep (m : MixState) : MixState :=
  let a := rotl16 (m.S[m.i] + m.A + m.B) 3
  let b := rotl16 (m.L[m.j] + a + m.B) (a + m.B)
  { S := m.S.set m.i a, L := m.L.set m.j b, A := a, B := b, i := m.i + 1, j := m.j + 1 }

/-- `n` turns of the loop. -/
def mixTurns : Nat → MixState → MixState
  | 0, m => m
  | n + 1, m => mixTurns n (mixStep m)

/-- `RC5KeyExpand(K)`: 78 turns (40 R102). -/
def rc5KeyExpand (K : Bytes16) : Vector Half 26 := (mixTurns 78 (mixStart K)).S

/-- S[k]; every index the rounds use is below 26. -/
def subkey (S : Vector Half 26) (k : Nat) : Half := S.getD k 0

/-- Round `i` of encryption (40 R105). -/
def rc5EncRound (S : Vector Half 26) (i : Nat) (ab : Half × Half) : Half × Half :=
  let a := rotl16 (ab.1 ^^^ ab.2) ab.2 + subkey S (2 * i)
  let b := rotl16 (ab.2 ^^^ a) a + subkey S (2 * i + 1)
  (a, b)

/-- Rounds 1 to `n` of encryption (40 R105). -/
def rc5EncRounds (S : Vector Half 26) : Nat → Half × Half → Half × Half
  | 0, ab => ab
  | n + 1, ab => rc5EncRound S (n + 1) (rc5EncRounds S n ab)

/-- `RC5Enc(S, A, B)` (40 R105). -/
def rc5Enc (S : Vector Half 26) (a b : Half) : Half × Half :=
  rc5EncRounds S 12 (a + subkey S 0, b + subkey S 1)

/-- Round `i` of decryption (40 R103). -/
def rc5DecRound (S : Vector Half 26) (i : Nat) (ab : Half × Half) : Half × Half :=
  let b := rotr16 (ab.2 - subkey S (2 * i + 1)) ab.1 ^^^ ab.1
  let a := rotr16 (ab.1 - subkey S (2 * i)) b ^^^ b
  (a, b)

/-- Rounds `n` down to 1 of decryption (40 R103). -/
def rc5DecRounds (S : Vector Half 26) : Nat → Half × Half → Half × Half
  | 0, ab => ab
  | n + 1, ab => rc5DecRounds S n (rc5DecRound S (n + 1) ab)

/-- `RC5Dec(S, A, B)` (40 R103). -/
def rc5Dec (S : Vector Half 26) (a b : Half) : Half × Half :=
  let ab := rc5DecRounds S 12 (a, b)
  (ab.1 - subkey S 0, ab.2 - subkey S 1)

/-- The register `{W1, W0}` of a block (10_state.md R35, R36). -/
def blockWord (ab : Half × Half) : Word := wordOfHalves ab.1 ab.2

/-- RC5_SETKEY (40 R101). -/
def rc5SetKey (s : State) : State :=
  complete 0 false false ((s.setSubkeys (rc5KeyExpand (keyBytes s))).setKeyed true)

/-- A keyed block operation on RC5_IN: NotKeyed when KEYED = 0, else its result in RC5_OUT (40 R104, R106). -/
def rc5Block (f : Vector Half 26 → Half → Half → Half × Half) (s : State) : State :=
  if s.status.keyed then
    complete 0 false false (s.setRc5Out (blockWord (f s.subkeys (lowHalf s.rc5In) (highHalf s.rc5In))))
  else raiseError .notKeyed s

/-- RC5_SETKEY (40_lightweight_cipher.md R101). -/
def execRc5SetKey (s : State) : Host.Outcome State Fault Refusal := .next (rc5SetKey s)

/-- RC5_DECRYPT (40_lightweight_cipher.md R104). -/
def execRc5Decrypt (s : State) : Host.Outcome State Fault Refusal := .next (rc5Block rc5Dec s)

/-- RC5_ENCRYPT (40_lightweight_cipher.md R106). -/
def execRc5Encrypt (s : State) : Host.Outcome State Fault Refusal := .next (rc5Block rc5Enc s)

end Sys2Proof.Machine
end

