-- ==== Sys2Proof/Machine/Beacon.lean ====
section
/-! DEFINITION. Machine/Beacon.lean: the BackgroundBeaconDecoder (42_beacon_decoder.md). The locator takes COMPANY_ID
as an argument; the meaning takes `Config.companyId` for it (00_scope.md R8, log entry 7). -/

namespace Sys2Proof.Machine

/-- Window A = left[63:22] (42 R192). -/
def windowA (m : Bytes16) : BitVec 42 := (be64Left m).extractLsb' 22 42

/-- Window B = {left[21:0], right[63:44]} (42 R192). -/
def windowB (m : Bytes16) : BitVec 42 := (be64Left m).extractLsb' 0 22 ++ (be64Right m).extractLsb' 44 20

/-- Window C = right[43:2] (42 R192). -/
def windowC (m : Bytes16) : BitVec 42 := (be64Right m).extractLsb' 2 42

/-- `Vote(A, B, C)`, the bitwise majority (42 R193). -/
def vote (a b c : BitVec 42) : BitVec 42 := (a &&& b) ||| (b &&& c) ||| (a &&& c)

/-- V of a mask: stages 2 and 3 (42 R191 to R193). -/
def votedWord (m : Bytes16) : BitVec 42 := vote (windowA m) (windowB m) (windowC m)

/-- The mask of three copies of W and two spare bits: the 16-byte big-endian form of `X = {W, W, W, s}` (42 R203). -/
def maskOf (W : BitVec 42) (spare : BitVec 2) : Bytes16 :=
  Vector.ofFn fun k : Fin 16 => (W ++ W ++ W ++ spare : BitVec 128).extractLsb' (8 * (15 - k.val)) 8

/-- The protocol field V[41:40] (42 R194). -/
def protoField (V : BitVec 42) : BitVec 2 := V.extractLsb' 40 2

/-- The sphere id field V[39:32] of protocol 0 (42 R195). -/
def sphereField (V : BitVec 42) : Byte := V.extractLsb' 32 8

/-- E0 = V[31:16] (42 R195). -/
def encField0 (V : BitVec 42) : Half := V.extractLsb' 16 16

/-- E1 = V[15:0] (42 R195). -/
def encField1 (V : BitVec 42) : Half := V.extractLsb' 0 16

/-- TOKEN = V[39:16] of protocol 1 (42 R200). -/
def tokenField (V : BitVec 42) : BitVec 24 := V.extractLsb' 16 24

/-- RESV = V[15:0] of protocol 1 (42 R200). -/
def resvField (V : BitVec 42) : Half := V.extractLsb' 0 16

/-- Tnow = (NOW >> 7) mod 2^16 (42 R197). -/
def timeTick (now : Word) : Half := (now >>> 7).setWidth 16

/-- The time word passes: the sentinel, or within one tick modulo 2^16 (42 R197). -/
def timeValid (d0 : Half) (now : Word) : Bool :=
  d0 == 0xCAFE || d0 - timeTick now == 0 || d0 - timeTick now == 1 || d0 - timeTick now == 0xFFFF

/-- The adjusted rssi: clamp(r + (OFF - 8) * 2, -127, -1) on integers, as a byte (42 R199). -/
def adjustedRssi (r : Byte) (off : BitVec 4) : Byte :=
  BitVec.ofInt 8 (max (-127) (min (-1) (r.toInt + ((off.toNat : Int) - 8) * 2)))

/-- ClearBeaconResults() (42 R184). -/
def clearBeacon (s : State) : State := s.setBcn BeaconRegs.zero

/-- The stage-3 write of BVOTE_LO and BVOTE_HI (42 R193). -/
def recordVote (V : BitVec 42) (s : State) : State :=
  s.setBcn { s.bcn with voteLo := V.extractLsb' 0 32, voteHi := V.extractLsb' 32 10 }

/-- The stage-4 write of BPROTO (42 R194). -/
def recordProto (V : BitVec 42) (s : State) : State := s.setBcn { s.bcn with proto := protoField V }

/-- The stage-5 write of BSPHERE (42 R195). -/
def recordSphere (V : BitVec 42) (s : State) : State := s.setBcn { s.bcn with sphere := sphereField V }

/-- The stage-6 write of BENC (42 R196). -/
def recordEnc (V : BitVec 42) (s : State) : State :=
  s.setBcn { s.bcn with enc := wordOfHalves (encField0 V) (encField1 V) }

/-- The stage-6 write of BDEC (42 R196). -/
def recordDec (d : Half × Half) (s : State) : State := s.setBcn { s.bcn with dec := blockWord d }

/-- The stage-7 writes of BFIELDS and BRSSI_OUT (42 R198, R199). -/
def recordFields (d1 : Half) (s : State) : State :=
  s.setBcn { s.bcn with
    loc := d1.extractLsb' 10 6, prof := d1.extractLsb' 7 3, off := d1.extractLsb' 3 4, flags := d1.extractLsb' 0 3,
    rssiOut := adjustedRssi s.brssi (d1.extractLsb' 3 4) }

/-- The stage-8 writes of BTOKEN, BRESV and BRSSI_OUT (42 R200). -/
def recordToken (V : BitVec 42) (s : State) : State :=
  s.setBcn { s.bcn with token := tokenField V, resv := resvField V, rssiOut := s.brssi }

/-- Stages 6b and 7: time validation, then the payload fields (42 R197 to R199). -/
def acceptDecoded (d : Half × Half) (s : State) : State :=
  if timeValid d.1 s.now then complete 0 false true (recordFields d.2 s) else raiseDrop .time s

/-- Stage 6: decryption once the sphere matches (42 R196). -/
def decryptRecord (V : BitVec 42) (s : State) : State :=
  if s.status.keyed then
    let d := rc5Dec s.subkeys (encField0 V) (encField1 V)
    acceptDecoded d (recordDec d s)
  else raiseError .notKeyed s

/-- Protocol 0, stages 5 to 7 (42 R195 to R199). -/
def protocol0 (V : BitVec 42) (s : State) : State :=
  if sphereField V = s.bcfg then decryptRecord V (recordEnc V (recordSphere V s))
  else raiseDrop .sphere (recordSphere V s)

/-- Protocol 1, stage 8 (42 R200). -/
def protocol1 (V : BitVec 42) (s : State) : State := complete 0 false true (recordToken V s)

/-- Stage 4: dispatch on the protocol field (42 R194, R185). -/
def dispatchProto (V : BitVec 42) (s : State) : State :=
  if protoField V = 1 then protocol1 V s
  else if protoField V = 0 then protocol0 V s
  else raiseDrop .protocol s

/-- DecodeMask(M), stages 2 to 8 (42 R185). -/
def decodeMask (m : Bytes16) (s : State) : State :=
  dispatchProto (votedWord m) (recordProto (votedWord m) (recordVote (votedWord m) s))

/-- The field check on the data bytes of a manufacturer structure, and its mask (42 R189). -/
def manufacturerMask (cid : BitVec 16) (f : List Byte) : Option Bytes16 :=
  if f.length ≠ 19 then none
  else if f.getD 0 0 ≠ cid.extractLsb' 0 8 ∨ f.getD 1 0 ≠ cid.extractLsb' 8 8 then none
  else if f.getD 2 0 ≠ 0x01 then none
  else some (Vector.ofFn fun k : Fin 16 => f.getD (3 + k.val) 0)

/-- The walk over the structures of R from `pos` (42 R188, R190). Every turn moves `pos` by at least 2, so a `fuel`
above the record's length is never used up. -/
def locateFrom (cid : BitVec 16) (R : List Byte) : Nat → Nat → Option Bytes16
  | 0, _ => none
  | fuel + 1, pos =>
    if R.length ≤ pos then none
    else if (R.getD pos 0).toNat = 0 then none
    else if R.length < pos + 1 + (R.getD pos 0).toNat then none
    else if R.getD (pos + 1) 0 = 0xFF then
      manufacturerMask cid ((R.drop (pos + 2)).take ((R.getD pos 0).toNat - 1))
    else locateFrom cid R fuel (pos + 1 + (R.getD pos 0).toNat)

/-- `Locate(R)`, stage 1: the mask, or nothing for Drop(1) (42 R190). -/
def locate (cid : BitVec 16) (R : List Byte) : Option Bytes16 := locateFrom cid R (R.length + 1) 0

/-- BCN_VOTE (42 R181). -/
def bcnVote (s : State) : State :=
  if s.inlen.toNat ≠ 16 then raiseError .invalidLength (clearBeacon s)
  else complete 0 false false (recordVote (votedWord (readMask s)) (clearBeacon s))

/-- BCN_DECODE (42 R182). -/
def bcnDecode (s : State) : State :=
  if s.inlen.toNat ≠ 16 then raiseError .invalidLength (clearBeacon s)
  else decodeMask (readMask s) (clearBeacon s)

/-- BCN_SCAN over a company id (42 R183). -/
def bcnScan (cid : BitVec 16) (s : State) : State :=
  if bufBytes < s.inlen.toNat then raiseError .invalidLength (clearBeacon s)
  else
    match locate cid (readIn s s.inlen.toNat) with
    | some m => decodeMask m (clearBeacon s)
    | none => raiseDrop .noField (clearBeacon s)

/-- BCN_VOTE (42_beacon_decoder.md R181). -/
def execBcnVote (s : State) : Host.Outcome State Fault Refusal := .next (bcnVote s)

/-- BCN_DECODE (42_beacon_decoder.md R182). -/
def execBcnDecode (s : State) : Host.Outcome State Fault Refusal := .next (bcnDecode s)

/-- BCN_SCAN (42_beacon_decoder.md R183). -/
def execBcnScan (s : State) : Host.Outcome State Fault Refusal := .next (bcnScan Config.companyId s)

end Sys2Proof.Machine
end

