-- ==== Sys2Proof/Machine/Ctr.lean ====
section
/-! DEFINITION. Machine/Ctr.lean: the CounterModeEngine (41_ctr_engine.md). The functions take the block primitive as
an argument; the meanings take `Config.E` for it (00_scope.md R8, log entry 6). -/

namespace Sys2Proof.Machine

/-- `IV(i)`: the seed, seven zero bytes, the block counter (41 R140). -/
def ivBlock (N : Vector Byte 8) (i : Nat) : Bytes16 :=
  (N ++ Vector.replicate 7 (0 : Byte)).push (BitVec.ofNat 8 i)

/-- `KS(K, N, n)`, 16n bytes (41 R141). -/
def keystream (E : Bytes16 → Bytes16 → Bytes16) (K : Bytes16) (N : Vector Byte 8) (n : Nat) : List Byte :=
  (List.range n).flatMap fun i => (E K (ivBlock N i)).toList

/-- The plaintext frame of length `L`: tag, payload, zero padding (41 R142). -/
def ctrFrame (T pay : List Byte) (L : Nat) : List Byte := T ++ pay ++ zeroBytes (L - 4 - pay.length)

/-- The lengths R145 allows for a whole ciphertext: a positive multiple of 16, at most 4096 (41 R144, R147). -/
def blockLength (L : Nat) : Bool := L != 0 && L % 16 == 0 && L ≤ bufBytes

/-- The ciphertext CTR_ENCRYPT writes (41 R144). -/
def ctrCipher (E : Bytes16 → Bytes16 → Bytes16) (K : Bytes16) (N : Vector Byte 8) (T pay : List Byte) (L : Nat) :
    List Byte :=
  xorBytes (ctrFrame T pay L) (keystream E K N (L / 16))

/-- The plaintext CTR_DECRYPT computes (41 R146, R147). -/
def ctrPlain (E : Bytes16 → Bytes16 → Bytes16) (K : Bytes16) (N : Vector Byte 8) (C : List Byte) : List Byte :=
  xorBytes C (keystream E K N (C.length / 16))

/-- CTR_ENCRYPT over a block primitive (41 R144). -/
def ctrEncrypt (E : Bytes16 → Bytes16 → Bytes16) (s : State) : State :=
  let L := s.outcap.toNat
  let p := s.inlen.toNat
  if !blockLength L then raiseError .invalidLength s
  else if L - 4 < p then raiseError .invalidLength s
  else complete L false false (writeOut (ctrCipher E (keyBytes s) (seedBytes s) (tagBytes s) (readIn s p) L) s)

/-- CTR_DECRYPT over a block primitive (41 R147). -/
def ctrDecrypt (E : Bytes16 → Bytes16 → Bytes16) (s : State) : State :=
  let c := s.inlen.toNat
  let D := s.outcap.toNat
  if !blockLength c then raiseError .invalidLength s
  else if bufBytes < D then raiseError .invalidLength s
  else
    let P := ctrPlain E (keyBytes s) (seedBytes s) (readIn s c)
    if P.take 4 ≠ tagBytes s then raiseError .validationFailed s
    else
      let avail := c - 4
      let w := min D avail
      complete w (decide (w < avail)) false (writeOut ((P.drop 4).take w) s)

/-- CTR_ENCRYPT (41_ctr_engine.md R144). -/
def execCtrEncrypt (s : State) : Host.Outcome State Fault Refusal := .next (ctrEncrypt Config.E s)

/-- CTR_DECRYPT (41_ctr_engine.md R147). -/
def execCtrDecrypt (s : State) : Host.Outcome State Fault Refusal := .next (ctrDecrypt Config.E s)

end Sys2Proof.Machine
end

