-- ==== Sys2Proof/Machine/Dispatch.lean ====
section
/-! DEFINITION. Machine/Dispatch.lean: the commands of the opcode map and their meanings (30_encoding.md R81, R82). -/

namespace Sys2Proof.Machine

def exec (i : Instr) (s : State) : Host.Outcome State Fault Refusal :=
  match i with
  | .rc5SetKey => Sys2Proof.Machine.execRc5SetKey s
  | .rc5Decrypt => Sys2Proof.Machine.execRc5Decrypt s
  | .rc5Encrypt => Sys2Proof.Machine.execRc5Encrypt s
  | .ctrEncrypt => Sys2Proof.Machine.execCtrEncrypt s
  | .ctrDecrypt => Sys2Proof.Machine.execCtrDecrypt s
  | .bcnVote => Sys2Proof.Machine.execBcnVote s
  | .bcnDecode => Sys2Proof.Machine.execBcnDecode s
  | .bcnScan => Sys2Proof.Machine.execBcnScan s

end Sys2Proof.Machine
end

