-- ==== Sys2Proof/Machine/HostPort.lean ====
section
/-! DEFINITION. Machine/HostPort.lean: what one access at the block's port does (10_state.md R51, 20_memory.md R60 to
R67, 30_encoding.md R82). -/

namespace Sys2Proof.Machine

/-- A host write of `w` to CMD: store it, decode it, perform the command, or raise IllegalCommand, in one step
(30_encoding.md R82, R83; 20_memory.md R66). -/
def issueCommand (w : Word) (s : State) : Host.Outcome State Fault Refusal :=
  match decode w with
  | .ok i => exec i (s.setCmd w)
  | .error _ => .next (raiseError .illegalCommand (s.setCmd w))

/-- An aligned 32-bit store at an offset (10_state.md R51 (a), (b), (e)). -/
def hostStore (off : Nat) (v : Word) (s : State) : Host.Outcome State Fault Refusal :=
  match placeAt off with
  | .reg .cmd => issueCommand v s
  | .reg r => .next (writeReg r v s)
  | .reserved => .next s
  | .inBuf k => .next (writeBufWord (inBase + k) v s)
  | .outBuf _ => .next s
  | .outside => .fault .outsideWindow

/-- The word at an offset (10_state.md R51 (c), (d)), for an offset of the window. -/
def windowWord (s : State) (off : Nat) : Word :=
  match placeAt off with
  | .reg r => readReg s r
  | .reserved => 0
  | .inBuf k => readBufWord s (inBase + k)
  | .outBuf k => readBufWord s (outBase + k)
  | .outside => 0

/-- An aligned 32-bit load at an offset: the host gets the current value and the block does not change
(10_state.md R51 (c)). -/
def hostLoad (off : Nat) (s : State) : Host.Outcome State Fault Refusal :=
  if placeAt off = .outside then .fault .outsideWindow else .next (s.addAnswer (windowWord s off))

/-- Whether the spec gives a data access a meaning (60_exceptions.md R290, 20_memory.md R60, R62), and if not, what
it is: `none` lets it through. -/
def accessStop (agent : Agent) (size off : Nat) : Option (Host.Outcome State Fault Refusal) :=
  if agent ≠ .host then some (.refused .secondAgent)
  else if windowBytes ≤ off then some (.fault .outsideWindow)
  else if size ≠ 4 then some (.refused .accessSize)
  else if off % 4 ≠ 0 then some (.refused .misaligned)
  else none

/-- An instruction fetch never has a meaning (20_memory.md R73, 60_exceptions.md R290). -/
def fetchStop (agent : Agent) (off : Nat) : Host.Outcome State Fault Refusal :=
  if agent ≠ .host then .refused .secondAgent
  else if windowBytes ≤ off then .fault .outsideWindow
  else .refused .executeFromWindow

/-- Performs one access. -/
def performAccess (a : HostAccess) (s : State) : Host.Outcome State Fault Refusal :=
  match a with
  | .store agent size off v => (accessStop agent size off).getD (hostStore off v s)
  | .load agent size off => (accessStop agent size off).getD (hostLoad off s)
  | .fetch agent off => fetchStop agent off
  | .reset => .next (resetBlock s)

/-- One step of the block: it performs the oldest waiting access; with none waiting it stays as it is
(10_state.md R22, 60_exceptions.md R276; log entries 1 and 2). -/
def portStep (s : State) : Host.Outcome State Fault Refusal :=
  match s.pending with
  | [] => .next s
  | a :: rest => performAccess a (s.setPending rest)

/-- Puts a store of the word `w` to CMD before every waiting access. -/
def offerCommand (w : Word) (s : State) : State := s.setPending (.store .host 4 0 w :: s.pending)

end Sys2Proof.Machine
end

