-- ==== Sys2Proof/Machine/Step.lean ====
section
/-! DEFINITION. Machine/Step.lean: the step, and how the next command is placed before it (log entry 1). -/

namespace Sys2Proof.Machine

/-- One step (`portStep`). -/
def step (s : State) : Host.Outcome State Fault Refusal := portStep s

/-- `s` with a host store of the command word `w`, its bits at and above `nbits` zero, as the next access: the block
takes its commands from host stores to CMD and from nowhere else (10_state.md R22, 30_encoding.md R82). -/
def State.withFetchWord (s : State) (nbits w : Nat) : State := offerCommand (BitVec.ofNat 32 (w % 2 ^ nbits)) s

end Sys2Proof.Machine
end

