-- ==== Sys2Proof/Machine/HostProgram.lean ====
section
/-! DEFINITION. Machine/HostProgram.lean: the host-program form of the spec (30_encoding.md R87, R88) as lists of
accesses, and running such a list. Host control flow makes no access (R87), so it is the caller's. -/

namespace Sys2Proof.Machine

/-- `wr REG, v` (30 R87). -/
def wr (r : Reg) (v : Word) : HostAccess := .store .host 4 (regOffset r) v

/-- `rd REG` (30 R87). -/
def rd (r : Reg) : HostAccess := .load .host 4 (regOffset r)

/-- A mnemonic line: the store of its command word (30 R87). -/
def issue (i : Instr) : HostAccess := wr .cmd (encode i)

/-- `wrbuf IN, off, bytes`: one store per word; the byte count is a multiple of 4 (30 R87). -/
def wrbuf (off : Nat) : List Byte → List HostAccess
  | b0 :: b1 :: b2 :: b3 :: rest => .store .host 4 (inBase + off) (wordOfBytes b0 b1 b2 b3) :: wrbuf (off + 4) rest
  | _ => []

/-- `rdbuf OUT, off, n`: one load per word (30 R87). DESIGN CHOICE: R87 asks for multiples of 4 of `wrbuf` only. Here an
`n` that is none is rounded up to whole words, and an `off` that is none gives misaligned loads, which the port refuses
(log entry 23). -/
def rdbuf (off n : Nat) : List HostAccess :=
  (List.range ((n + 3) / 4)).map fun k => .load .host 4 (outBase + off + 4 * k)

/-- `wrkey k0..k15` (30 R88). -/
def wrkey (K : Bytes16) : List HostAccess :=
  [ wr .key0 (wordOfBytes K[0] K[1] K[2] K[3]), wr .key1 (wordOfBytes K[4] K[5] K[6] K[7]),
    wr .key2 (wordOfBytes K[8] K[9] K[10] K[11]), wr .key3 (wordOfBytes K[12] K[13] K[14] K[15]) ]

/-- `wrseed n0..n7` (30 R88). -/
def wrseed (N : Vector Byte 8) : List HostAccess :=
  [ wr .ivseed0 (wordOfBytes N[0] N[1] N[2] N[3]), wr .ivseed1 (wordOfBytes N[4] N[5] N[6] N[7]) ]

/-- `wrtag t0..t3` (30 R88). -/
def wrtag (T : Vector Byte 4) : List HostAccess := [wr .tag (wordOfBytes T[0] T[1] T[2] T[3])]

/-- `rc5dec w0, w1` (30 R88). -/
def rc5dec (w0 w1 : Half) : List HostAccess := [wr .rc5In (wordOfHalves w0 w1), issue .rc5Decrypt]

/-- `rc5enc w0, w1` (30 R88). -/
def rc5enc (w0 w1 : Half) : List HostAccess := [wr .rc5In (wordOfHalves w0 w1), issue .rc5Encrypt]

/-- `ctrenc n, cap` (30 R88). -/
def ctrenc (n cap : Word) : List HostAccess := [wr .inlen n, wr .outcap cap, issue .ctrEncrypt]

/-- `ctrdec n, cap` (30 R88). -/
def ctrdec (n cap : Word) : List HostAccess := [wr .inlen n, wr .outcap cap, issue .ctrDecrypt]

/-- `bcn op, n` for one of the three beacon commands (30 R88). -/
def bcn (op : Instr) (n : Word) : List HostAccess := [wr .inlen n, issue op]

/-- Performs accesses in order, one at a time (20_memory.md R70), stopping at the first that has no step. -/
def runAccesses : List HostAccess → State → Host.Outcome State Fault Refusal
  | [], s => .next s
  | a :: rest, s =>
    match performAccess a s with
    | .next t => runAccesses rest t
    | .fault f => .fault f
    | .refused r => .refused r

/-- What the host must do once before beacons can be decoded: the Admin key, RC5_SETKEY, the sphere id
(70_reset_and_hazards.md R303 steps 2 and 3). -/
def bootAccesses (adminKey : Bytes16) (sphere : Byte) : List HostAccess :=
  wrkey adminKey ++ [issue .rc5SetKey, wr .bcfg (sphere.setWidth 32)]

end Sys2Proof.Machine
end

