-- ==== Sys2Proof/Machine/HostServices.lean ====
section
/-! DEFINITION. Machine/HostServices.lean: the host software around the block (45_host_services.md R230 to R252).
It is not part of the block and not of its state (R230): these are functions of the host's own data, whose block
calls are runs of host accesses. Random bytes, the key store and the clock are arguments (00_scope.md R7). -/

namespace Sys2Proof.Machine

/-- AccessLevel (45 R231). -/
inductive AccessLevel where
  | admin | member | guest | setup | notSet | disabled
  deriving DecidableEq, Repr

/-- The numeric value of a level; lower is more privileged (45 R231). -/
def levelValue : AccessLevel → Nat
  | .admin => 0
  | .member => 1
  | .guest => 2
  | .setup => 100
  | .notSet => 201
  | .disabled => 255

/-- The wire byte of a level (45 R231). -/
def levelByte (l : AccessLevel) : Byte := BitVec.ofNat 8 (levelValue l)

/-- The level a wire byte names, if any (45 R231, R239). -/
def levelOfByte (b : Byte) : Option AccessLevel :=
  [AccessLevel.admin, .member, .guest, .setup, .notSet, .disabled].find? fun l => levelByte l == b

/-- The host's own state (45 R230, R234, R238, R241). -/
structure HostData where
  /-- SessionNonce. -/
  sessionNonce : Vector Byte 5
  /-- SetupKey. -/
  setupKey : Bytes16
  /-- SetupKey's validity flag. -/
  setupKeyValid : Bool
  /-- The device operation mode is "setup". -/
  setupMode : Bool
  /-- The AccessPolicy's enforcement switch (R241). -/
  enforcement : Bool
  /-- The OPEN host parameter `sessionMode`, fixed per connection (R238). -/
  sessionMode : Bool
  /-- A connection is active: between a connect and a disconnect event (R234, R250; log entry 24). -/
  connected : Bool
  deriving DecidableEq, Repr

/-- The encryption modes other than mesh (45 R242, R243). -/
inductive EncMode where
  | ctr | guestEcb | guestEcbWithDefaultTag
  deriving DecidableEq, Repr

/-- What a host operation answers: an error of R25, or a result. -/
abbrev Reply (α : Type) := Except ErrCode α

/-- A host operation's reply with the block's state after it; a stop of the block's port is passed on. -/
abbrev ServiceOutcome (α : Type) := Host.Outcome (State × Reply α) Fault Refusal

/-- Resolve(level) over the external key store (45 R239). -/
def resolveKey (getKey : AccessLevel → Bytes16) (h : HostData) : AccessLevel → Reply Bytes16
  | .admin => .ok (getKey .admin)
  | .member => .ok (getKey .member)
  | .guest => .ok (getKey .guest)
  | .setup => if h.setupKeyValid && h.setupMode then .ok h.setupKey else .error .keyUnavailable
  | .notSet => .error .keyUnavailable
  | .disabled => .error .keyUnavailable

/-- Resolve for a wire byte: a byte outside the enumeration has no key (45 R239). -/
def resolveByte (getKey : AccessLevel → Bytes16) (h : HostData) (b : Byte) : Reply Bytes16 :=
  match levelOfByte b with
  | some l => resolveKey getKey h l
  | none => .error .keyUnavailable

/-- Admin, Member and Guest, the levels numeric comparison orders (45 R240). -/
def ordinaryLevel : AccessLevel → Bool
  | .admin => true
  | .member => true
  | .guest => true
  | .setup => false
  | .notSet => false
  | .disabled => false

/-- allowAccess(minimum, provided) (45 R240, R241). -/
def allowAccess (h : HostData) (minimum provided : AccessLevel) : Bool :=
  if !h.enforcement then true
  else if minimum = .setup then provided = .setup && h.setupKeyValid && h.setupMode
  else if !ordinaryLevel minimum then false
  else if !(ordinaryLevel provided || provided = .setup) then false
  else levelValue provided ≤ levelValue minimum

/-- The IV seed of session mode: packet nonce, then session nonce (45 R235). -/
def sessionSeed (pn : Vector Byte 3) (sn : Vector Byte 5) : Vector Byte 8 := pn ++ sn

/-- The IV seed of no-session mode: packet nonce, DEFAULT_TAG, a zero byte (45 R236). -/
def noSessionSeed (pn : Vector Byte 3) (defaultTag : Vector Byte 4) : Vector Byte 8 := (pn ++ defaultTag).push 0

/-- The IV seed of a packet (45 R235, R236, R238). -/
def ivSeed (h : HostData) (pn : Vector Byte 3) : Vector Byte 8 :=
  if h.sessionMode then sessionSeed pn h.sessionNonce else noSessionSeed pn Config.defaultTag

/-- T of session mode: the first 4 bytes of the session nonce (45 R237). -/
def sessionTag (sn : Vector Byte 5) : Vector Byte 4 := Vector.ofFn fun k : Fin 4 => sn[k.val]

/-- The validation tag of a packet (45 R237). -/
def validationTag (h : HostData) : Vector Byte 4 :=
  if h.sessionMode then sessionTag h.sessionNonce else Config.defaultTag

/-- `ceil16(x) = 16 * ceil(x / 16)` (45 R246). -/
def ceil16 (x : Nat) : Nat := 16 * ((x + 15) / 16)

/-- The fixed overhead of a non-mesh packet: packet nonce and access-level byte (45 R232). -/
def packetOverhead : Nat := 4

/-- The fixed overhead of a mesh packet: nonce and random (45 R233). -/
def meshOverhead : Nat := 8

/-- calculateEncryptionBufferLength for a CTR packet of the given overhead (45 R246). -/
def encryptionBufferLength (overhead plainLen : Nat) : Nat := ceil16 (plainLen + 4) + overhead

/-- calculateDecryptionBufferLength for a CTR packet of the given overhead, never negative (45 R246). -/
def decryptionBufferLength (overhead cipherLen : Nat) : Nat :=
  if overhead < cipherLen then cipherLen - overhead else 0

/-- calculateEncryptionBufferLength by mode; each ECB mode's formula is OPEN, a constant of its own (45 R246, D50). -/
def encryptionBufferLengthFor (mode : EncMode) (plainLen : Nat) : Nat :=
  match mode with
  | .ctr => encryptionBufferLength packetOverhead plainLen
  | .guestEcb => Config.guestEcbEncryptionLength plainLen
  | .guestEcbWithDefaultTag => Config.guestEcbTagEncryptionLength plainLen

/-- calculateDecryptionBufferLength by mode; each ECB mode's formula is OPEN, a constant of its own (45 R246, D50). -/
def decryptionBufferLengthFor (mode : EncMode) (cipherLen : Nat) : Nat :=
  match mode with
  | .ctr => decryptionBufferLength packetOverhead cipherLen
  | .guestEcb => Config.guestEcbDecryptionLength cipherLen
  | .guestEcbWithDefaultTag => Config.guestEcbTagDecryptionLength cipherLen

/-- A byte string with zero bytes to the next multiple of 4, for whole-word stores (30 R87; log entry 19). -/
def padWord (bs : List Byte) : List Byte := bs ++ zeroBytes ((4 - bs.length % 4) % 4)

/-- The accesses of a CTR encryption (45 R242, 70 R303 step 5). -/
def encryptAccesses (K : Bytes16) (N : Vector Byte 8) (T : Vector Byte 4) (pt : List Byte) : List HostAccess :=
  wrkey K ++ wrseed N ++ wrtag T ++ wrbuf 0 (padWord pt) ++
    ctrenc (BitVec.ofNat 32 pt.length) (BitVec.ofNat 32 (ceil16 (pt.length + 4)))

/-- The accesses of a CTR decryption into a destination of `cap` bytes (45 R244, 70 R303 step 5). -/
def decryptAccesses (K : Bytes16) (N : Vector Byte 8) (T : Vector Byte 4) (C : List Byte) (cap : Nat) :
    List HostAccess :=
  wrkey K ++ wrseed N ++ wrtag T ++ wrbuf 0 (padWord C) ++ ctrdec (BitVec.ofNat 32 C.length) (BitVec.ofNat 32 cap)

/-- What the host reads after a CTR command: OUT_BUF[0..OUTLEN) when ERRCODE is OK, else the block's error as it
stands (45 R242, R244; 70 R313). -/
def blockReply (t : State) : Reply (List Byte) :=
  if t.status.err = .ok then .ok (readBytes t outBase t.outlen.toNat) else .error t.status.err

/-- A reply that made no block access. -/
def replyNow {α : Type} (s : State) (r : Reply α) : ServiceOutcome α := .next (s, r)

/-- Runs accesses on the block and forms the reply from what the host then reads. -/
def callBlock {α : Type} (ops : List HostAccess) (form : List Byte → α) (s : State) : ServiceOutcome α :=
  match runAccesses ops s with
  | .next t => .next (t, (blockReply t).map form)
  | .fault f => .fault f
  | .refused r => .refused r

/-- The greatest length a store to INLEN or OUTCAP keeps (10_state.md R27, R28). -/
def lengthFieldMax : Nat := 8191

/-- The CTR core shared by the packet and mesh encryptions (45 R242, R245): the operands are written and CTR_ENCRYPT is
issued, whose error, if any, is the reply. DESIGN CHOICE: a plaintext that does not fit IN_BUF cannot be written, and is
refused with InvalidLength before any access (log entry 18). -/
def encryptCtr {α : Type} (K : Bytes16) (N : Vector Byte 8) (T : Vector Byte 4) (pt : List Byte)
    (form : List Byte → α) (s : State) : ServiceOutcome α :=
  if bufBytes < pt.length then replyNow s (.error .invalidLength)
  else callBlock (encryptAccesses K N T pt) form s

/-- The CTR core shared by the packet and mesh decryptions (45 R244, R245): the operands are written and CTR_DECRYPT is
issued, whose error, if any, is the reply. DESIGN CHOICE: a ciphertext that does not fit IN_BUF, or a capacity that
OUTCAP cannot hold, is refused with InvalidLength before any access (log entry 18). -/
def decryptCtr {α : Type} (K : Bytes16) (N : Vector Byte 8) (T : Vector Byte 4) (C : List Byte) (cap : Nat)
    (form : List Byte → α) (s : State) : ServiceOutcome α :=
  if bufBytes < C.length ∨ lengthFieldMax < cap then replyNow s (.error .invalidLength)
  else callBlock (decryptAccesses K N T C cap) form s

/-- encrypt(level, CTR, plaintext) with the drawn packet nonce (45 R232, R242). -/
def encryptPacket (getKey : AccessLevel → Bytes16) (h : HostData) (level : AccessLevel) (pn : Vector Byte 3)
    (pt : List Byte) (s : State) : ServiceOutcome (List Byte) :=
  match resolveKey getKey h level with
  | .error e => replyNow s (.error e)
  | .ok K => encryptCtr K (ivSeed h pn) (validationTag h) pt (fun C => pn.toList ++ [levelByte level] ++ C) s

/-- decrypt(packet) in CTR mode: the plaintext and the packet's access-level byte (45 R232, R244). -/
def decryptPacket (getKey : AccessLevel → Bytes16) (h : HostData) (packet : List Byte) (cap : Nat) (s : State) :
    ServiceOutcome (List Byte × Byte) :=
  match packet with
  | n0 :: n1 :: n2 :: level :: C =>
    match resolveByte getKey h level with
    | .error e => replyNow s (.error e)
    | .ok K => decryptCtr K (ivSeed h #v[n0, n1, n2]) (validationTag h) C cap (fun P => (P, level)) s
  | _ => replyNow s (.error .invalidLength)

/-- decrypt in a mode: ECB is one-way (45 R244). DESIGN CHOICE: an ECB mode answers Unsupported also for a packet shorter
than 4 bytes, where R244 names InvalidLength too and gives no order (log entry 26). -/
def decryptInMode (getKey : AccessLevel → Bytes16) (h : HostData) (mode : EncMode) (packet : List Byte) (cap : Nat)
    (s : State) : ServiceOutcome (List Byte × Byte) :=
  match mode with
  | .ctr => decryptPacket getKey h packet cap s
  | .guestEcb => replyNow s (.error .unsupported)
  | .guestEcbWithDefaultTag => replyNow s (.error .unsupported)

/-- The 16-byte ECB plaintext: an optional tag, the payload, zero bytes (45 R243). -/
def ecbBlock (tag payload : List Byte) : Bytes16 := Vector.ofFn fun k : Fin 16 => (tag ++ payload).getD k.val 0

/-- encrypt in an ECB mode: one call of the external primitive, no block command (45 R243). -/
def encryptEcb (E : Bytes16 → Bytes16 → Bytes16) (K : Bytes16) (tag payload : List Byte) (outLen : Nat) :
    Reply Bytes16 :=
  if 16 < (tag ++ payload).length ∨ outLen ≠ 16 then .error .invalidLength else .ok (E K (ecbBlock tag payload))

/-- encrypt(level, mode, plaintext) (45 R242, R243). DESIGN CHOICE: an ECB mode resolves the key before it checks the
lengths, so KeyUnavailable is answered where both fail; R243 gives no order (log entry 25). -/
def encryptInMode (getKey : AccessLevel → Bytes16) (h : HostData) (level : AccessLevel) (mode : EncMode)
    (pn : Vector Byte 3) (pt : List Byte) (outLen : Nat) (s : State) : ServiceOutcome (List Byte) :=
  match mode with
  | .ctr => encryptPacket getKey h level pn pt s
  | .guestEcb =>
    replyNow s ((resolveKey getKey h level).bind fun K => (encryptEcb Config.E K [] pt outLen).map (·.toList))
  | .guestEcbWithDefaultTag =>
    replyNow s ((resolveKey getKey h level).bind fun K =>
      (encryptEcb Config.E K Config.defaultTag.toList pt outLen).map (·.toList))

/-- encryptMesh: the Admin key, header `nonce || random` as the IV seed, MESH_TAG (45 R233, R245). -/
def encryptMesh (getKey : AccessLevel → Bytes16) (nonce random : Vector Byte 4) (pt : List Byte) (s : State) :
    ServiceOutcome (List Byte) :=
  encryptCtr (getKey .admin) (nonce ++ random) Config.meshTag pt (fun C => nonce.toList ++ random.toList ++ C) s

/-- decryptMesh: the plaintext and the nonce (45 R245). -/
def decryptMesh (getKey : AccessLevel → Bytes16) (packet : List Byte) (cap : Nat) (s : State) :
    ServiceOutcome (List Byte × List Byte) :=
  match packet with
  | n0 :: n1 :: n2 :: n3 :: r0 :: r1 :: r2 :: r3 :: C =>
    decryptCtr (getKey .admin) #v[n0, n1, n2, n3, r0, r1, r2, r3] Config.meshTag C cap
      (fun P => (P, [n0, n1, n2, n3])) s
  | _ => replyNow s (.error .invalidLength)

/-- onConnect(): a fresh session nonce, and a connection is active (45 R234, R248). -/
def onConnect (nonce : Vector Byte 5) (h : HostData) : HostData := { h with sessionNonce := nonce, connected := true }

/-- invalidateSetupKey() (45 R248). -/
def invalidateSetupKey (h : HostData) : HostData := { h with setupKeyValid := false }

/-- On disconnect the setup key is invalidated, the session nonce stays, and no connection is active (45 R234, R248). -/
def onDisconnect (h : HostData) : HostData := { invalidateSetupKey h with connected := false }

/-- A change of operation mode invalidates the setup key (45 R248). -/
def setOperationMode (setup : Bool) (h : HostData) : HostData :=
  if setup = h.setupMode then h else { invalidateSetupKey h with setupMode := setup }

/-- generateSetupKey() with 16 random bytes: in setup mode a new valid key, else any prior key is invalidated; the
answer says whether it succeeded (45 R234, R248). -/
def generateSetupKey (random : Bytes16) (h : HostData) : HostData × Bool :=
  if h.setupMode then ({ h with setupKey := random, setupKeyValid := true }, true) else (invalidateSetupKey h, false)

/-- The RC5 key wrapper: exactly 16 bytes, checked before any access (45 R249). -/
def rc5KeyWrapper (key : List Byte) : Reply (List HostAccess) :=
  if key.length ≠ 16 then .error .invalidLength
  else .ok (wrkey (Vector.ofFn fun k : Fin 16 => key.getD k.val 0) ++ [issue .rc5SetKey])

/-- The RC5 block wrapper: exactly 4 bytes, checked before any access; the packing is OPEN (45 R249). -/
def rc5BlockWrapper (block : List Byte) : Reply (List HostAccess) :=
  if block.length ≠ 4 then .error .invalidLength
  else .ok [wr .rc5In (Config.packBlock (Vector.ofFn fun k : Fin 4 => block.getD k.val 0)), issue .rc5Decrypt]

/-- The errors the command dispatcher maps to a forced disconnect (45 R250). -/
def disconnectError : ErrCode → Bool
  | .validationFailed => true
  | .keyUnavailable => true
  | .ok => false
  | .invalidLength => false
  | .notFound => false
  | .unsupported => false
  | .illegalCommand => false
  | .notKeyed => false

/-- The command dispatcher forces the peer's disconnect: one of the two errors, on an active connection (45 R250). -/
def forcesDisconnect (h : HostData) (e : ErrCode) : Bool := h.connected && disconnectError e

/-- The host's data after the dispatcher has seen a reply: a forced disconnect is carried out, any other failure is
local and changes nothing (45 R248, R250). -/
def afterReply {α : Type} (h : HostData) : Reply α → HostData
  | .ok _ => h
  | .error e => if forcesDisconnect h e then onDisconnect h else h

/-- The command dispatcher: it performs a host operation once, never again (no retries), answers its reply, and
disconnects the peer where the reply forces it (45 R250). -/
def dispatchOperation {α : Type} (op : HostData → State → ServiceOutcome α) (h : HostData) (s : State) :
    Host.Outcome (State × HostData × Reply α) Fault Refusal :=
  match op h s with
  | .next (t, r) => .next (t, afterReply h r, r)
  | .fault f => .fault f
  | .refused r => .refused r

/-- ParsedBeacon, the event of an accepted record (42 R201): protocol 0 carries sphere, location, profile and flags,
protocol 1 the device token; the host adds the address. -/
inductive BeaconPayload where
  | located (sphere : Byte) (loc : BitVec 6) (prof : BitVec 3) (flags : BitVec 3)
  | token (token : BitVec 24) (resv : Half)
  deriving DecidableEq, Repr

/-- The event the host dispatches (42 R201, 45 R252). -/
structure ParsedBeacon where
  protocol : BitVec 2
  payload : BeaconPayload
  /-- The rssi in dBm, from BRSSI_OUT read as int8. -/
  rssi : Int
  address : List Byte
  deriving DecidableEq, Repr

/-- The accesses of one scan record (45 R252, 70 R303 step 4). -/
def beaconAccesses (record : List Byte) (rssi : Byte) (now : Word) : List HostAccess :=
  wrbuf 0 (padWord record) ++
    [wr .brssi (rssi.setWidth 32), wr .now now] ++ bcn .bcnScan (BitVec.ofNat 32 record.length)

/-- The event the result registers give, if the record was accepted (42 R201, 45 R252). -/
def beaconEvent (address : List Byte) (t : State) : Option ParsedBeacon :=
  if t.status.bvalid then
    some { protocol := t.bcn.proto,
           payload := if t.bcn.proto = 0 then .located t.bcn.sphere t.bcn.loc t.bcn.prof t.bcn.flags
             else .token t.bcn.token t.bcn.resv,
           rssi := t.bcn.rssiOut.toInt,
           address := address }
  else none

/-- The beacon flow of one scan record: an accepted record gives an event, any other is dropped silently (45 R252).
A record longer than IN_BUF is dropped before any access (log entry 18). -/
def beaconFlow (record : List Byte) (rssi : Byte) (now : Word) (address : List Byte) (s : State) :
    Host.Outcome (State × Option ParsedBeacon) Fault Refusal :=
  if bufBytes < record.length then .next (s, none)
  else
    match runAccesses (beaconAccesses record rssi now) s with
    | .next t => .next (t, beaconEvent address t)
    | .fault f => .fault f
    | .refused r => .refused r

end Sys2Proof.Machine
end

