-- ==== Sys2Proof/Safety.lean ====
section
/-! DEFINITION. Safety.lean: what a good state and a safe run are, in the terms the statements use. -/

namespace Sys2Proof

open Machine

/-- STATUS is one the block's outcomes can leave: never a host-only code; a drop reason exactly with NotFound;
TRUNC and BVALID only with OK and never together (10_state.md R24, R25; 60_exceptions.md R272 to R274). -/
def Machine.Status.Coherent (st : Status) : Prop :=
  st.err ≠ .keyUnavailable ∧ st.err ≠ .unsupported ∧ (st.drop ≠ .noDrop ↔ st.err = .notFound) ∧
    (st.trunc = true → st.err = .ok ∧ st.bvalid = false) ∧ (st.bvalid = true → st.err = .ok)

/-- OUTLEN is a length OUT_BUF can hold, and not zero only after a success that is no beacon's (10_state.md R26). -/
def Machine.State.OutlenCoherent (s : State) : Prop :=
  s.outlen.toNat ≤ bufBytes ∧ (s.outlen ≠ 0 → s.status.err = .ok ∧ s.status.bvalid = false)

/-- While KEYED = 0 nothing the RC5 engine computes is visible: RC5_OUT, BDEC and BFIELDS are 0 (10_state.md R36, R41,
R42, R49; 42_beacon_decoder.md R196). -/
def Machine.State.UnkeyedBlank (s : State) : Prop :=
  s.status.keyed = false → s.rc5Out = 0 ∧ s.bcn.dec = 0 ∧ s.bcn.loc = 0 ∧ s.bcn.prof = 0 ∧ s.bcn.off = 0 ∧
    s.bcn.flags = 0

/-- The beacon results agree with the vote they come from: BPROTO is 0 or the vote's protocol field, and an accepted
record is of protocol 0 or 1 (10_state.md R37, R38; 42_beacon_decoder.md R194). -/
def Machine.State.BeaconCoherent (s : State) : Prop :=
  (s.bcn.proto = 0 ∨ s.bcn.proto = s.bcn.voteHi.extractLsb' 8 2) ∧
    (s.status.bvalid = true → s.bcn.proto = 0 ∨ s.bcn.proto = 1)

/-- The invariant of the block: memory is in its canonical form and the status, output and beacon registers are
coherent. It holds at reset and every step keeps it. -/
def Machine.State.Inv (s : State) : Prop :=
  Memory.wf s.mem = true ∧ s.status.Coherent ∧ s.OutlenCoherent ∧ s.UnkeyedBlank ∧ s.BeaconCoherent

/-- A step that has a next state. -/
def Progresses (s : State) : Prop := ∃ t, step s = .next t

/-- The registers the host writes: CMD aside, nothing but a host store or reset changes them (10_state.md R21, R23). -/
def SameOperands (s t : State) : Prop :=
  t.inlen = s.inlen ∧ t.outcap = s.outcap ∧ t.now = s.now ∧ t.bcfg = s.bcfg ∧ t.brssi = s.brssi ∧
    t.key0 = s.key0 ∧ t.key1 = s.key1 ∧ t.key2 = s.key2 ∧ t.key3 = s.key3 ∧ t.ivseed0 = s.ivseed0 ∧
    t.ivseed1 = s.ivseed1 ∧ t.tag = s.tag ∧ t.rc5In = s.rc5In

/-- The model's own fields, which no command touches. -/
def SamePort (s t : State) : Prop := t.pending = s.pending ∧ t.answers = s.answers ∧ t.draws = s.draws

/-- Every byte of both buffers reads as before. -/
def SameBytes (s t : State) : Prop := ∀ a, readByte t a = readByte s a

/-- The next access is the host's store of `w` to CMD, with `rest` waiting behind it (30_encoding.md R82). -/
def Offers (s : State) (w : Word) (rest : List HostAccess) : Prop := s.pending = .store .host 4 0 w :: rest

/-- Bit `b` of the mask read as the 128-bit big-endian number X (42_beacon_decoder.md R191). -/
def maskBit (m : Bytes16) (b : Nat) : Bool := (m.toList.getD (15 - b / 8) 0).getLsbD (b % 8)

/-- Byte `k` of the keystream of the state's key and seed: byte `k mod 16` of `E(K, IV(k div 16))`
(41_ctr_engine.md R140, R141). -/
def keystreamByte (s : State) (k : Nat) : Byte :=
  (Config.E (keyBytes s) (ivBlock (seedBytes s) (k / 16))).toList.getD (k % 16) 0

/-- Byte `k` of the plaintext frame over a payload of `p` bytes in IN_BUF: tag, payload, zeros (41 R142). -/
def frameByte (s : State) (p k : Nat) : Byte :=
  if k < 4 then lane s.tag k else if k < 4 + p then readByte s (inBase + (k - 4)) else 0

/-- Byte `k` of the decryption of IN_BUF (41 R146, R147). -/
def plainByte (s : State) (k : Nat) : Byte := readByte s (inBase + k) ^^^ keystreamByte s k

/-- The first four decrypted bytes equal TAG (41 R149). -/
def TagMatches (s : State) : Prop := ∀ j < 4, plainByte s j = lane s.tag j

/-- A CTR length the block accepts: a positive multiple of 16, at most 4096 (41 R144, R147). -/
def BlockMultiple (L : Nat) : Prop := L ≠ 0 ∧ L % 16 = 0 ∧ L ≤ 4096

/-- An advertising structure of a type and data (42 R187). -/
def adStructure (type : Byte) (data : List Byte) : List Byte := BitVec.ofNat 8 (data.length + 1) :: type :: data

/-- The manufacturer-specific structure that carries a mask (42 R186, R189). -/
def manufacturerField (cid : BitVec 16) (m : Bytes16) : List Byte :=
  adStructure 0xFF ([cid.extractLsb' 0 8, cid.extractLsb' 8 8, 0x01] ++ m.toList)

/-- A run of whole structures none of which is manufacturer-specific (42 R187, R188). -/
inductive ForeignPrefix : List Byte → Prop where
  | nil : ForeignPrefix []
  | cons (type : Byte) (data rest : List Byte) (ht : type ≠ 0xFF) (hd : data.length < 255)
      (hr : ForeignPrefix rest) : ForeignPrefix (adStructure type data ++ rest)

/-- The beacon results of a vote alone: BVOTE holds V, the rest is 0 (42 R181, R184). -/
def voteOnly (V : BitVec 42) : BeaconRegs :=
  { BeaconRegs.zero with voteLo := V.extractLsb' 0 32, voteHi := V.extractLsb' 32 10 }

/-- The read-only registers of the map (10_state.md section 2). -/
def readOnlyRegs : List Reg :=
  [.status, .outlen, .rc5Out, .bvoteLo, .bvoteHi, .bproto, .bsphere, .benc, .bdec, .bfields, .btoken, .bresv,
    .brssiOut]

/-- The STATUS of success, an error or a drop, KEYED as it was (60_exceptions.md R272 to R274). -/
def okStatus (keyed trunc bvalid : Bool) : Status :=
  { err := .ok, keyed := keyed, trunc := trunc, bvalid := bvalid, drop := .noDrop }

/-- The STATUS of an error (60_exceptions.md R272). -/
def errStatus (keyed : Bool) (e : ErrCode) : Status :=
  { err := e, keyed := keyed, trunc := false, bvalid := false, drop := .noDrop }

/-- The STATUS of a drop (60_exceptions.md R273). -/
def droppedStatus (keyed : Bool) (d : DropReason) : Status :=
  { err := .notFound, keyed := keyed, trunc := false, bvalid := false, drop := d }

end Sys2Proof
end

