-- ==== Sys2Proof/Certificates/Slice0/Obligations.lean ====
section
/-! DEFINITION. Certificates/Slice0/Obligations.lean: the statements for the provers, each over all states. -/

open Sys2Proof Sys2Proof.Machine

/-! Encoding -/

/-- 30_encoding.md R81: a word is a command exactly when it is that command's word of the opcode map. -/
def Obligations.DecodeSelectsTheEqualWord : Prop :=
  ∀ (w : Word) (i : Instr), decode w = .ok i ↔
    (w, i) ∈ ([(0x00000001, .rc5SetKey), (0x00000002, .rc5Decrypt), (0x00000003, .rc5Encrypt),
      (0x00000010, .ctrEncrypt), (0x00000011, .ctrDecrypt), (0x00000020, .bcnVote), (0x00000021, .bcnDecode),
      (0x00000022, .bcnScan)] : List (Word × Instr))

/-- 30_encoding.md R80, R81 with the byte lanes of 20_memory.md R63: the decoder and the encoder are inverse. -/
def Obligations.DecodeAndEncodeAgree : Prop :=
  ∀ (bs : List Byte) (i : Instr) (rest : List Byte),
    decodeBytes bs = .ok (i, rest) ↔ bs = encodeBytes i ++ rest

/-- Words written out from 30_encoding.md R80, R81, R84 decode to what they stand for (a sanity statement). -/
def Obligations.WrittenOutWordsDecode : Prop :=
  decode 0b00000000000000000000000000000001#32 = .ok .rc5SetKey ∧
  decode 0b00000000000000000000000000010001#32 = .ok .ctrDecrypt ∧
  decode 0b00000000000000000000000000100010#32 = .ok .bcnScan ∧
  decode 0b00000000000000000000000100010000#32 = .error .reservedBits ∧
  decode 0b00000000000000000000000000010010#32 = .error .reservedOpcode ∧
  decode 0b00000000000000000000000000000000#32 = .error .unassignedOpcode

/-- 30_encoding.md R83: an illegal command word raises IllegalCommand, whose code is 6, and changes nothing but CMD
(which has stored the word, R82), STATUS and OUTLEN; KEYED keeps its value. -/
def Obligations.IllegalWordRaisesIllegalCommand : Prop :=
  errCodeBits .illegalCommand = 6 ∧
  ∀ (s : State) (w : Word) (rest : List HostAccess), Offers s w rest →
    (w.extractLsb' 8 24 ≠ 0 ∨
      w.extractLsb' 0 8 ∉ ([0x01, 0x02, 0x03, 0x10, 0x11, 0x20, 0x21, 0x22] : List Byte)) →
    step s = .next { s with
      pending := rest, cmd := w, status := errStatus s.status.keyed .illegalCommand, outlen := 0 }

/-! The step, the port and reset -/

/-- 30_encoding.md R82: a step whose next access is a host store of a decoded word to CMD stores the word and runs the
command. That the block takes its accesses from `pending` is the model's choice (log entry 1). -/
def Obligations.StepRunsTheDecodedCommand : Prop :=
  ∀ (s : State) (w : Word) (i : Instr) (rest : List HostAccess), Offers s w rest → decode w = .ok i →
    step s = exec i { s with pending := rest, cmd := w }

/-- 10_state.md R53, 70_reset_and_hazards.md R300: after reset every register reads 0 and KEYED is 0. -/
def Obligations.RegistersReadZeroAfterReset : Prop :=
  (∀ r : Reg, readReg State.reset r = 0) ∧ State.reset.status.keyed = false

/-- 70_reset_and_hazards.md R300 and 10_state.md R54: when the platform asserts reset every register reads 0, KEYED is
0, and every buffer byte takes a fresh draw. That the host's waiting accesses and answers stay is the model's choice
(log entry 12), as is the counter that makes the draw fresh (log entry 4). -/
def Obligations.ResetEventClearsTheBlock : Prop :=
  ∀ (s : State) (rest : List HostAccess), s.pending = .reset :: rest →
    ∃ t, step s = .next t ∧ (∀ r : Reg, readReg t r = 0) ∧ t.status.keyed = false ∧
      (∀ a, readByte t a = Config.resetDraw (s.draws + 1) a) ∧ t.pending = rest ∧ t.answers = s.answers

/-- The invariant holds at reset (10_state.md R53). -/
def Obligations.ResetMeetsTheInvariant : Prop := State.reset.Inv

/-- Every step keeps the invariant: canonical memory, coherent STATUS, OUTLEN, beacon registers, and nothing of the
RC5 engine visible while KEYED = 0 (10_state.md R24 to R26, R36 to R42, R49; 60_exceptions.md R272 to R274). -/
def Obligations.StepKeepsTheInvariant : Prop :=
  ∀ s t : State, s.Inv → step s = .next t → t.Inv

/-- 20_memory.md R62, R66, 60_exceptions.md R270, 70_reset_and_hazards.md R300: every access the spec gives a meaning,
whatever command it issues, and the reset event complete in one step. That the next access of the queue `pending` comes
up is the model's choice (log entry 1), as is that the queue survives a reset (log entry 12). -/
def Obligations.WellFormedAccessCompletes : Prop :=
  ∀ (s : State) (a : HostAccess) (rest : List HostAccess), s.pending = a :: rest → a.wf = true →
    ∃ t, step s = .next t ∧ t.pending = rest

/-- 20_memory.md R62: a host access to the window that is not 32 bits wide, or not aligned, has no step. The two names,
and that an access that is both is refused for its size, are the model's choice (log entry 14). -/
def Obligations.SubwordAndMisalignedAccessesRefused : Prop :=
  ∀ (s : State) (size off : Nat) (v : Word) (rest : List HostAccess), off < 0x4000 →
    (s.pending = .store .host size off v :: rest ∨ s.pending = .load .host size off :: rest) →
    (size ≠ 4 → step s = .refused .accessSize) ∧
    (size = 4 → off % 4 ≠ 0 → step s = .refused .misaligned)

/-- 20_memory.md R60, R73 and 60_exceptions.md R290: a second agent and an instruction fetch are refused, and a host
access outside the window faults (the fault is the model's name for an address the block does not have, log entry 13).
Where two of them apply the rules name no order: that the agent comes before the window, and the window before size,
alignment and fetch, is the model's choice (log entry 14). -/
def Obligations.ForeignAccessesStopByName : Prop :=
  ∀ (s : State) (size off : Nat) (v : Word) (rest : List HostAccess),
    (s.pending = .store .other size off v :: rest ∨ s.pending = .load .other size off :: rest ∨
        s.pending = .fetch .other off :: rest → step s = .refused .secondAgent) ∧
    (0x4000 ≤ off →
      s.pending = .store .host size off v :: rest ∨ s.pending = .load .host size off :: rest ∨
        s.pending = .fetch .host off :: rest → step s = .fault .outsideWindow) ∧
    (off < 0x4000 → s.pending = .fetch .host off :: rest → step s = .refused .executeFromWindow)

/-- 10_state.md R51 (a), R27 to R35: a store to an RW register stores the value's defined bits and changes nothing
else. -/
def Obligations.StoreKeepsDefinedBits : Prop :=
  ∀ (s : State) (off : Nat) (v : Word) (rest : List HostAccess), s.pending = .store .host 4 off v :: rest →
    (off = 0x00C → step s = .next { s with pending := rest, inlen := v.extractLsb' 0 13 }) ∧
    (off = 0x010 → step s = .next { s with pending := rest, outcap := v.extractLsb' 0 13 }) ∧
    (off = 0x014 → step s = .next { s with pending := rest, now := v }) ∧
    (off = 0x018 → step s = .next { s with pending := rest, bcfg := v.extractLsb' 0 8 }) ∧
    (off = 0x01C → step s = .next { s with pending := rest, brssi := v.extractLsb' 0 8 }) ∧
    (off = 0x020 → step s = .next { s with pending := rest, key0 := v }) ∧
    (off = 0x024 → step s = .next { s with pending := rest, key1 := v }) ∧
    (off = 0x028 → step s = .next { s with pending := rest, key2 := v }) ∧
    (off = 0x02C → step s = .next { s with pending := rest, key3 := v }) ∧
    (off = 0x030 → step s = .next { s with pending := rest, ivseed0 := v }) ∧
    (off = 0x034 → step s = .next { s with pending := rest, ivseed1 := v }) ∧
    (off = 0x038 → step s = .next { s with pending := rest, tag := v }) ∧
    (off = 0x040 → step s = .next { s with pending := rest, rc5In := v })

/-- 10_state.md R51 (b): a store to an RO register, a reserved offset or OUT_BUF is ignored. -/
def Obligations.StoreToReadOnlyPlaceIgnored : Prop :=
  ∀ (s : State) (off : Nat) (v : Word) (rest : List HostAccess), s.pending = .store .host 4 off v :: rest →
    off % 4 = 0 →
    ((∃ r ∈ readOnlyRegs, off = regOffset r) ∨ off = 0x03C ∨ (0x070 ≤ off ∧ off < 0x1000) ∨
      (0x2000 ≤ off ∧ off < 0x4000)) →
    step s = .next { s with pending := rest }

/-- 20_memory.md R63 and 10_state.md R46: a store to IN_BUF places the word's bytes, lane j at byte offset j, and
changes no other byte and no register. -/
def Obligations.StoreToInBufPlacesLanes : Prop :=
  ∀ (s : State) (off : Nat) (v : Word) (rest : List HostAccess), s.pending = .store .host 4 off v :: rest →
    0x1000 ≤ off → off < 0x2000 → off % 4 = 0 →
    ∃ t, step s = .next t ∧ t = { s with pending := rest, mem := t.mem } ∧
      (∀ j, j < 4 → readByte t (off + j) = v.extractLsb' (8 * j) 8) ∧
      (∀ a, a < off ∨ off + 4 ≤ a → readByte t a = readByte s a)

/-- 20_memory.md R65: a word stored to IN_BUF is what a load of the same word returns. -/
def Obligations.BufferWordReadsBack : Prop :=
  ∀ (s : State) (off : Nat) (v : Word) (rest : List HostAccess),
    s.pending = .store .host 4 off v :: .load .host 4 off :: rest →
    0x1000 ≤ off → off < 0x2000 → off % 4 = 0 →
    ∃ t u, step s = .next t ∧ step t = .next u ∧ u.answers = s.answers ++ [v]

/-- 10_state.md R51 (c), (d), 20_memory.md R61, R63: a load returns the current value of the register at its offset of
10_state.md section 2, 0 at a reserved offset, and the buffer's bytes by lane; it changes nothing else. That the value
is appended to `answers` is how the model shows it to the host (log entry 3). -/
def Obligations.LoadReturnsTheCurrentValue : Prop :=
  (∀ e ∈ ([(0x000, .cmd), (0x004, .status), (0x008, .outlen), (0x00C, .inlen), (0x010, .outcap), (0x014, .now),
      (0x018, .bcfg), (0x01C, .brssi), (0x020, .key0), (0x024, .key1), (0x028, .key2), (0x02C, .key3),
      (0x030, .ivseed0), (0x034, .ivseed1), (0x038, .tag), (0x040, .rc5In), (0x044, .rc5Out), (0x048, .bvoteLo),
      (0x04C, .bvoteHi), (0x050, .bproto), (0x054, .bsphere), (0x058, .benc), (0x05C, .bdec), (0x060, .bfields),
      (0x064, .btoken), (0x068, .bresv), (0x06C, .brssiOut)] : List (Nat × Reg)), regOffset e.2 = e.1) ∧
  ∀ (s : State) (off : Nat) (rest : List HostAccess), s.pending = .load .host 4 off :: rest → off < 0x4000 →
    off % 4 = 0 →
    ∃ v, step s = .next { s with pending := rest, answers := s.answers ++ [v] } ∧
      (∀ r : Reg, off = regOffset r → v = readReg s r) ∧
      (off = 0x03C ∨ (0x070 ≤ off ∧ off < 0x1000) ∨ 0x3000 ≤ off → v = 0) ∧
      (0x1000 ≤ off ∧ off < 0x3000 → ∀ j, j < 4 → v.extractLsb' (8 * j) 8 = readByte s (off + j))

/-- 10_state.md R24, R25: the codes of the outcomes and of the drop reasons, and the fields of STATUS as the host reads
it, reserved bits 0. -/
def Obligations.StatusReadsByFields : Prop :=
  (errCodeBits .ok = 0 ∧ errCodeBits .invalidLength = 1 ∧ errCodeBits .keyUnavailable = 2 ∧
    errCodeBits .validationFailed = 3 ∧ errCodeBits .notFound = 4 ∧ errCodeBits .unsupported = 5 ∧
    errCodeBits .illegalCommand = 6 ∧ errCodeBits .notKeyed = 7) ∧
  (dropBits .noDrop = 0 ∧ dropBits .noField = 1 ∧ dropBits .protocol = 2 ∧ dropBits .sphere = 3 ∧
    dropBits .time = 4) ∧
  ∀ s : State,
    (readReg s .status).extractLsb' 0 4 = errCodeBits s.status.err ∧
    (readReg s .status).getLsbD 4 = s.status.keyed ∧
    (readReg s .status).getLsbD 5 = s.status.trunc ∧
    (readReg s .status).getLsbD 6 = s.status.bvalid ∧
    (readReg s .status).getLsbD 7 = false ∧
    (readReg s .status).extractLsb' 8 3 = dropBits s.status.drop ∧
    (readReg s .status).extractLsb' 11 21 = 0

/-- 10_state.md R23, R26 to R45: a 32-bit register reads as its field, narrow registers read zero-extended, and BFIELDS
reads LOC [5:0], PROF [10:8], OFF [15:12], FLAGS [18:16] with 0 elsewhere. -/
def Obligations.NarrowRegistersReadZeroExtended : Prop :=
  ∀ s : State,
    (readReg s .outlen).toNat = s.outlen.toNat ∧ (readReg s .inlen).toNat = s.inlen.toNat ∧
    (readReg s .outcap).toNat = s.outcap.toNat ∧ (readReg s .bcfg).toNat = s.bcfg.toNat ∧
    (readReg s .brssi).toNat = s.brssi.toNat ∧ (readReg s .bvoteHi).toNat = s.bcn.voteHi.toNat ∧
    (readReg s .bproto).toNat = s.bcn.proto.toNat ∧ (readReg s .bsphere).toNat = s.bcn.sphere.toNat ∧
    (readReg s .btoken).toNat = s.bcn.token.toNat ∧ (readReg s .bresv).toNat = s.bcn.resv.toNat ∧
    (readReg s .brssiOut).toNat = s.bcn.rssiOut.toNat ∧
    (readReg s .bfields).toNat =
      s.bcn.loc.toNat + 2 ^ 8 * s.bcn.prof.toNat + 2 ^ 12 * s.bcn.off.toNat + 2 ^ 16 * s.bcn.flags.toNat ∧
    readReg s .cmd = s.cmd ∧ readReg s .now = s.now ∧ readReg s .key0 = s.key0 ∧ readReg s .key1 = s.key1 ∧
    readReg s .key2 = s.key2 ∧ readReg s .key3 = s.key3 ∧ readReg s .ivseed0 = s.ivseed0 ∧
    readReg s .ivseed1 = s.ivseed1 ∧ readReg s .tag = s.tag ∧ readReg s .rc5In = s.rc5In ∧
    readReg s .rc5Out = s.rc5Out ∧ readReg s .bvoteLo = s.bcn.voteLo ∧ readReg s .benc = s.bcn.enc ∧
    readReg s .bdec = s.bcn.dec

/-- A list of accesses, performed one per step, is the same as performing it in one go (20_memory.md R66, R70; the
list is the model's port, log entry 1). -/
def Obligations.StepsPerformWaitingAccessesInOrder : Prop :=
  ∀ (ops : List HostAccess) (s t : State), s.pending = ops → (∀ a ∈ ops, a.wf = true) →
    (Host.Core.run Sys2Proof.core ops.length s = .next t ↔
      runAccesses ops { s with pending := [] } = .next t)

/-! Whole-machine rules of commands -/

/-- 10_state.md R21, R23, R46: no command changes CMD, an operand register, IN_BUF or the port. -/
def Obligations.CommandsKeepOperandsAndInBuf : Prop :=
  ∀ (i : Instr) (s t : State), exec i s = .next t →
    SameOperands s t ∧ SamePort s t ∧ t.cmd = s.cmd ∧ ∀ a, a < 0x2000 → readByte t a = readByte s a

/-- 10_state.md R26, R47: a command writes OUT_BUF only below OUTLEN, and only the CTR commands leave an OUTLEN other
than 0. -/
def Obligations.OutlenBoundsWhatIsWritten : Prop :=
  ∀ (i : Instr) (s t : State), exec i s = .next t →
    (∀ a, a < 0x2000 ∨ 0x2000 + t.outlen.toNat ≤ a → readByte t a = readByte s a) ∧
    (t.outlen ≠ 0 → (i = .ctrEncrypt ∨ i = .ctrDecrypt) ∧ t.status.err = .ok)

/-- 10_state.md R52: no command reads a flag but KEYED, nor OUTLEN. -/
def Obligations.FlagsAreNotInputs : Prop :=
  ∀ (i : Instr) (s : State) (st : Status) (n : BitVec 13), st.keyed = s.status.keyed →
    exec i { s with status := st, outlen := n } = exec i s

/-- 10_state.md R49: KEYED is set by RC5_SETKEY, cleared by reset, and changed by nothing else. -/
def Obligations.KeyedChangesOnlyBySetkeyAndReset : Prop :=
  ∀ (s t : State), step s = .next t →
    (∀ rest, s.pending = .reset :: rest → t.status.keyed = false) ∧
    (∀ rest, Offers s 0x00000001 rest → t.status.keyed = true) ∧
    ((∀ rest, s.pending ≠ .reset :: rest) → (∀ rest, ¬ Offers s 0x00000001 rest) →
      t.status.keyed = s.status.keyed)

/-- 10_state.md R48, 40_lightweight_cipher.md R110, 70_reset_and_hazards.md R311: apart from reset, only RC5_SETKEY
changes the subkey table, and it takes the key registers of that moment. -/
def Obligations.SubkeyTableIsASnapshot : Prop :=
  ∀ (s t : State), step s = .next t →
    (∀ rest, Offers s 0x00000001 rest → t.subkeys = rc5KeyExpand (keyBytes s)) ∧
    ((∀ rest, s.pending ≠ .reset :: rest) → (∀ rest, ¬ Offers s 0x00000001 rest) → t.subkeys = s.subkeys)

/-- 10_state.md R48, R49: while KEYED = 0 nothing observable depends on the subkey table. Replacing it changes no step
but for the table itself, and a step that leaves KEYED = 1 leaves no trace of it. -/
def Obligations.UnkeyedTableIsInvisible : Prop :=
  ∀ (s t : State) (T : Vector Half 26), s.status.keyed = false → step s = .next t →
    ∃ t', step { s with subkeys := T } = .next t' ∧ { t' with subkeys := t.subkeys } = t ∧
      (t.status.keyed = true → t' = t)

/-! LightweightCipher -/

/-- 40_lightweight_cipher.md R100, 00_scope.md R11: a rotation moves each bit by the amount modulo 16, to the left or to
the right, so only the low 4 bits of the amount matter, a multiple of 16 leaves the word, and the two rotations undo each
other. -/
def Obligations.RotationsUseTheLowFourBits : Prop :=
  ∀ x s s' : Half,
    (∀ k, k < 16 → (rotl16 x s).getLsbD ((k + s.toNat) % 16) = x.getLsbD k ∧
      (rotr16 x s).getLsbD k = x.getLsbD ((k + s.toNat) % 16)) ∧
    (s.extractLsb' 0 4 = s'.extractLsb' 0 4 → rotl16 x s = rotl16 x s' ∧ rotr16 x s = rotr16 x s') ∧
    (s.extractLsb' 0 4 = 0 → rotl16 x s = x ∧ rotr16 x s = x) ∧
    rotr16 (rotl16 x s) s = x ∧ rotl16 (rotr16 x s) s = x

/-- 40_lightweight_cipher.md R102: the key schedule. Before mixing, S[i] = P16 + i * Q16 modulo 2^16 and key word i is
K[2i] + 256 * K[2i+1]; A and B start at 0; after n turns the indices are n mod 26 and n mod 8; a turn writes the rotated
sums at the two indices, which become A and B, and no other entry; 78 turns give the table. -/
def Obligations.KeyScheduleMixesSeventyEightTurns : Prop :=
  (∀ K : Bytes16,
    (∀ i : Fin 26, ((mixStart K).S[i]).toNat = (0xB7E1 + i.val * 0x9E37) % 2 ^ 16) ∧
    (∀ i : Fin 8, ((mixStart K).L[i]).toNat = (K[2 * i.val]).toNat + 256 * (K[2 * i.val + 1]).toNat) ∧
    (mixStart K).A = 0 ∧ (mixStart K).B = 0 ∧
    (∀ n, mixTurns (n + 1) (mixStart K) = mixStep (mixTurns n (mixStart K))) ∧
    (∀ n, (mixTurns n (mixStart K)).i.val = n % 26 ∧ (mixTurns n (mixStart K)).j.val = n % 8) ∧
    rc5KeyExpand K = (mixTurns 78 (mixStart K)).S) ∧
  ∀ m : MixState,
    (mixStep m).A = rotl16 (m.S[m.i] + m.A + m.B) 3 ∧
    (mixStep m).B = rotl16 (m.L[m.j] + (mixStep m).A + m.B) ((mixStep m).A + m.B) ∧
    (mixStep m).S[m.i] = (mixStep m).A ∧ (mixStep m).L[m.j] = (mixStep m).B ∧
    (∀ k : Fin 26, k ≠ m.i → (mixStep m).S[k] = m.S[k]) ∧
    (∀ k : Fin 8, k ≠ m.j → (mixStep m).L[k] = m.L[k])

/-- 40_lightweight_cipher.md R101, 10_state.md R32, 20_memory.md R63: byte k of K is bits [8(k mod 4)+7 : 8(k mod 4)] of
KEY(k div 4), and RC5_SETKEY installs the key schedule of K, sets KEYED, reports OK, and changes nothing else. -/
def Obligations.SetkeyInstallsTheSchedule : Prop :=
  (∀ (s : State) (j : Fin 4),
    (keyBytes s)[j.val] = s.key0.extractLsb' (8 * j.val) 8 ∧ (keyBytes s)[4 + j.val] = s.key1.extractLsb' (8 * j.val) 8 ∧
    (keyBytes s)[8 + j.val] = s.key2.extractLsb' (8 * j.val) 8 ∧
    (keyBytes s)[12 + j.val] = s.key3.extractLsb' (8 * j.val) 8) ∧
  ∀ s : State, exec .rc5SetKey s = .next { s with
    subkeys := rc5KeyExpand (keyBytes s), status := okStatus true false false, outlen := 0 }

/-- 40_lightweight_cipher.md R103 to R106: encryption adds S[0] and S[1] and runs rounds 1 to 12, decryption runs rounds 12
down to 1 and subtracts them, and each round is its two half-rounds in order; when KEYED = 1 the block commands put
{B, A} of the cipher's result on RC5_IN in RC5_OUT, report OK, and change nothing else. -/
def Obligations.Rc5BlockCommandsTransformRc5In : Prop :=
  (∀ (S : Vector Half 26) (k : Fin 26), subkey S k.val = S[k]) ∧
  (∀ (S : Vector Half 26) (a b : Half),
    rc5Enc S a b = rc5EncRounds S 12 (a + subkey S 0, b + subkey S 1) ∧
    rc5EncRounds S 0 (a, b) = (a, b) ∧
    (∀ n, rc5EncRounds S (n + 1) (a, b) = rc5EncRound S (n + 1) (rc5EncRounds S n (a, b))) ∧
    (∀ i, ∃ a' b', rc5EncRound S i (a, b) = (a', b') ∧ a' = rotl16 (a ^^^ b) b + subkey S (2 * i) ∧
      b' = rotl16 (b ^^^ a') a' + subkey S (2 * i + 1)) ∧
    (∃ a' b', rc5DecRounds S 12 (a, b) = (a', b') ∧ rc5Dec S a b = (a' - subkey S 0, b' - subkey S 1)) ∧
    rc5DecRounds S 0 (a, b) = (a, b) ∧
    (∀ n, rc5DecRounds S (n + 1) (a, b) = rc5DecRounds S n (rc5DecRound S (n + 1) (a, b))) ∧
    (∀ i, ∃ a' b', rc5DecRound S i (a, b) = (a', b') ∧ b' = rotr16 (b - subkey S (2 * i + 1)) a ^^^ a ∧
      a' = rotr16 (a - subkey S (2 * i)) b' ^^^ b')) ∧
  ∀ s : State, s.status.keyed = true →
    exec .rc5Decrypt s = .next { s with
      rc5Out := (rc5Dec s.subkeys (s.rc5In.extractLsb' 0 16) (s.rc5In.extractLsb' 16 16)).2 ++
        (rc5Dec s.subkeys (s.rc5In.extractLsb' 0 16) (s.rc5In.extractLsb' 16 16)).1
      status := okStatus true false false, outlen := 0 } ∧
    exec .rc5Encrypt s = .next { s with
      rc5Out := (rc5Enc s.subkeys (s.rc5In.extractLsb' 0 16) (s.rc5In.extractLsb' 16 16)).2 ++
        (rc5Enc s.subkeys (s.rc5In.extractLsb' 0 16) (s.rc5In.extractLsb' 16 16)).1
      status := okStatus true false false, outlen := 0 }

/-- 40_lightweight_cipher.md R104, R106: when KEYED = 0 the block commands raise NotKeyed, code 7, and change nothing
but STATUS and OUTLEN. -/
def Obligations.Rc5BlockCommandsNeedAKey : Prop :=
  errCodeBits .notKeyed = 7 ∧
  ∀ s : State, s.status.keyed = false →
    exec .rc5Decrypt s = .next { s with status := errStatus false .notKeyed, outlen := 0 } ∧
    exec .rc5Encrypt s = .next { s with status := errStatus false .notKeyed, outlen := 0 }

/-- 40_lightweight_cipher.md R107: the round-trip law of the cipher, in both directions, for every table. -/
def Obligations.CipherRoundTrips : Prop :=
  ∀ (S : Vector Half 26) (a b : Half),
    rc5Dec S (rc5Enc S a b).1 (rc5Enc S a b).2 = (a, b) ∧ rc5Enc S (rc5Dec S a b).1 (rc5Dec S a b).2 = (a, b)

/-! CounterModeEngine -/

/-- 41_ctr_engine.md R140: the counter block is the seed, seven zero bytes and the block index. 10_state.md R33, R34,
20_memory.md R63: byte k of the seed is bits [8(k mod 4)+7 : 8(k mod 4)] of IVSEED(k div 4), and byte k of the tag bits
[8k+7 : 8k] of TAG. -/
def Obligations.CounterBlockLayout : Prop :=
  (∀ (s : State) (j : Fin 4),
    (seedBytes s)[j.val] = s.ivseed0.extractLsb' (8 * j.val) 8 ∧
    (seedBytes s)[4 + j.val] = s.ivseed1.extractLsb' (8 * j.val) 8 ∧ lane s.tag j.val = s.tag.extractLsb' (8 * j.val) 8) ∧
  ∀ (N : Vector Byte 8) (i : Nat), i < 256 →
    (ivBlock N i).toList = N.toList ++ [0, 0, 0, 0, 0, 0, 0] ++ [BitVec.ofNat 8 i] ∧
    ((BitVec.ofNat 8 i : Byte)).toNat = i

/-- 41_ctr_engine.md R141: byte 16i + k of the keystream is byte k of E(K, IV(i)), there are 16n bytes, and the XOR is
byte by byte. -/
def Obligations.KeystreamIsBlockAfterBlock : Prop :=
  ∀ (E : Bytes16 → Bytes16 → Bytes16) (K : Bytes16) (N : Vector Byte 8) (n : Nat),
    (keystream E K N n).length = 16 * n ∧
    (∀ i k, i < n → k < 16 → (keystream E K N n)[16 * i + k]? = (E K (ivBlock N i)).toList[k]?) ∧
    ∀ (as bs : List Byte) (k : Nat) (x y : Byte), as[k]? = some x → bs[k]? = some y →
      (xorBytes as bs)[k]? = some (x ^^^ y)

/-- 41_ctr_engine.md R141, R142, R144: with OUTCAP a block multiple L and INLEN at most L - 4, CTR_ENCRYPT writes
frame XOR keystream to OUT_BUF[0..L), sets OUTLEN to L, reports OK, and changes nothing else. -/
def Obligations.CtrEncryptWritesTheCiphertext : Prop :=
  ∀ (s : State) (L p : Nat), s.outcap.toNat = L → s.inlen.toNat = p → BlockMultiple L → p ≤ L - 4 →
    ∃ t, exec .ctrEncrypt s = .next t ∧
      t = { s with mem := t.mem, status := okStatus s.status.keyed false false, outlen := BitVec.ofNat 13 L } ∧
      t.outlen.toNat = L ∧
      (∀ k, k < L → readByte t (0x2000 + k) = frameByte s p k ^^^ keystreamByte s k) ∧
      (∀ a, a < 0x2000 ∨ 0x2000 + L ≤ a → readByte t a = readByte s a)

/-- 41_ctr_engine.md R144, R145: CTR_ENCRYPT raises InvalidLength, code 1, when OUTCAP is 0, no multiple of 16 or above
4096, or INLEN exceeds OUTCAP - 4; nothing but STATUS and OUTLEN changes. -/
def Obligations.CtrEncryptRejectsLengths : Prop :=
  errCodeBits .invalidLength = 1 ∧
  ∀ s : State,
    (s.outcap.toNat = 0 ∨ s.outcap.toNat % 16 ≠ 0 ∨ 4096 < s.outcap.toNat ∨
      s.outcap.toNat < s.inlen.toNat + 4) →
    exec .ctrEncrypt s = .next { s with status := errStatus s.status.keyed .invalidLength, outlen := 0 }

/-- 41_ctr_engine.md R147, R149 to R151: with INLEN a block multiple c, OUTCAP at most 4096 and the tag matching,
CTR_DECRYPT writes the w = min(OUTCAP, c - 4) plaintext bytes after the tag, sets OUTLEN to w and TRUNC exactly when
w < c - 4, reports OK, and changes nothing else. -/
def Obligations.CtrDecryptWritesThePlaintext : Prop :=
  ∀ (s : State) (c D w : Nat), s.inlen.toNat = c → s.outcap.toNat = D → BlockMultiple c → D ≤ 4096 →
    TagMatches s → w = min D (c - 4) →
    ∃ t, exec .ctrDecrypt s = .next t ∧
      t = { s with
        mem := t.mem, status := okStatus s.status.keyed (decide (w < c - 4)) false, outlen := BitVec.ofNat 13 w } ∧
      t.outlen.toNat = w ∧
      (∀ k, k < w → readByte t (0x2000 + k) = plainByte s (4 + k)) ∧
      (∀ a, a < 0x2000 ∨ 0x2000 + w ≤ a → readByte t a = readByte s a)

/-- 41_ctr_engine.md R145, R147 to R150: CTR_DECRYPT raises InvalidLength when INLEN is 0, no multiple of 16 or above
4096 or OUTCAP is above 4096, else ValidationFailed, code 3, when the first four decrypted bytes differ from TAG;
nothing but STATUS and OUTLEN changes. -/
def Obligations.CtrDecryptRejects : Prop :=
  errCodeBits .invalidLength = 1 ∧ errCodeBits .validationFailed = 3 ∧
  ∀ s : State,
    (¬ BlockMultiple s.inlen.toNat ∨ 4096 < s.outcap.toNat →
      exec .ctrDecrypt s = .next { s with status := errStatus s.status.keyed .invalidLength, outlen := 0 }) ∧
    (BlockMultiple s.inlen.toNat → s.outcap.toNat ≤ 4096 → ¬ TagMatches s →
      exec .ctrDecrypt s = .next { s with status := errStatus s.status.keyed .validationFailed, outlen := 0 })

/-- 41_ctr_engine.md R152: what CTR_ENCRYPT produced over p payload bytes, decrypted with the same key, seed and tag
into a destination of D bytes with p ≤ D, gives the payload and then min(D, L - 4) - p zero bytes, with TRUNC exactly
when D < L - 4. -/
def Obligations.CtrRoundTrips : Prop :=
  ∀ (s t u : State) (L p D : Nat), s.outcap.toNat = L → s.inlen.toNat = p → BlockMultiple L → p ≤ L - 4 →
    exec .ctrEncrypt s = .next t →
    keyBytes u = keyBytes s → seedBytes u = seedBytes s → u.tag = s.tag → u.inlen.toNat = L →
    u.outcap.toNat = D → p ≤ D → D ≤ 4096 →
    (∀ k, k < L → readByte u (0x1000 + k) = readByte t (0x2000 + k)) →
    ∃ v, exec .ctrDecrypt u = .next v ∧ v.status.err = .ok ∧ v.outlen.toNat = min D (L - 4) ∧
      (v.status.trunc = true ↔ D < L - 4) ∧
      (∀ k, k < p → readByte v (0x2000 + k) = readByte s (0x1000 + k)) ∧
      (∀ k, p ≤ k → k < min D (L - 4) → readByte v (0x2000 + k) = 0)

/-- 41_ctr_engine.md R153: if CTR_DECRYPT accepts a ciphertext, then for every ciphertext that differs from it in bytes 0
to 3 and nowhere else the decrypted tag bytes differ from TAG in exactly the changed bits, and CTR_DECRYPT rejects it with
ValidationFailed. The ciphertext is IN_BUF[0..INLEN); the other bytes of the two states may differ. -/
def Obligations.TagTamperingIsRejected : Prop :=
  ∀ s t u : State, exec .ctrDecrypt s = .next t → t.status.err = .ok →
    keyBytes u = keyBytes s → seedBytes u = seedBytes s → u.tag = s.tag → u.inlen = s.inlen →
    u.outcap = s.outcap →
    (∃ j, j < 4 ∧ readByte u (0x1000 + j) ≠ readByte s (0x1000 + j)) →
    (∀ k, 4 ≤ k → k < s.inlen.toNat → readByte u (0x1000 + k) = readByte s (0x1000 + k)) →
    (∀ j, j < 4 →
      plainByte u j = lane u.tag j ^^^ (readByte u (0x1000 + j) ^^^ readByte s (0x1000 + j))) ∧
    exec .ctrDecrypt u = .next { u with status := errStatus u.status.keyed .validationFailed, outlen := 0 }

/-- 70_reset_and_hazards.md R312: two encryptions with one key and seed leave ciphertexts whose XOR is the XOR of
their plaintext frames. -/
def Obligations.KeystreamReuseCancels : Prop :=
  ∀ (s s' t t' : State) (L p p' : Nat), s.outcap.toNat = L → s'.outcap.toNat = L → s.inlen.toNat = p →
    s'.inlen.toNat = p' → BlockMultiple L → p ≤ L - 4 → p' ≤ L - 4 →
    keyBytes s' = keyBytes s → seedBytes s' = seedBytes s →
    exec .ctrEncrypt s = .next t → exec .ctrEncrypt s' = .next t' →
    ∀ k, k < L → readByte t (0x2000 + k) ^^^ readByte t' (0x2000 + k) = frameByte s p k ^^^ frameByte s' p' k

/-! BackgroundBeaconDecoder -/

/-- 42_beacon_decoder.md R191 to R193: with the mask read as the 128-bit big-endian number X, the windows are
A = X[127:86], B = X[85:44] and C = X[43:2], and each bit of V is the majority of theirs. -/
def Obligations.VoteIsTheMajorityOfTheWindows : Prop :=
  ∀ (m : Bytes16) (k : Nat), k < 42 →
    (windowA m).getLsbD k = maskBit m (86 + k) ∧ (windowB m).getLsbD k = maskBit m (44 + k) ∧
    (windowC m).getLsbD k = maskBit m (2 + k) ∧
    ((votedWord m).getLsbD k = true ↔
      2 ≤ (maskBit m (86 + k)).toNat + (maskBit m (44 + k)).toNat + (maskBit m (2 + k)).toNat)

/-- 42_beacon_decoder.md R202: where at each position at most one window differs from W, V is W; equal windows vote to
themselves; and so a mask that holds W three times, with such errors, votes to W. -/
def Obligations.SingleErrorsAreCorrected : Prop :=
  (∀ A B C W : BitVec 42,
    (∀ k, k < 42 →
      (A.getLsbD k = W.getLsbD k ∧ B.getLsbD k = W.getLsbD k) ∨
      (A.getLsbD k = W.getLsbD k ∧ C.getLsbD k = W.getLsbD k) ∨
      (B.getLsbD k = W.getLsbD k ∧ C.getLsbD k = W.getLsbD k)) → vote A B C = W) ∧
  (∀ W : BitVec 42, vote W W W = W) ∧
  ∀ (m : Bytes16) (W : BitVec 42) (spare : BitVec 2),
    (∀ k, k < 42 →
      (maskBit m (86 + k) = maskBit (maskOf W spare) (86 + k) ∧
        maskBit m (44 + k) = maskBit (maskOf W spare) (44 + k)) ∨
      (maskBit m (86 + k) = maskBit (maskOf W spare) (86 + k) ∧
        maskBit m (2 + k) = maskBit (maskOf W spare) (2 + k)) ∨
      (maskBit m (44 + k) = maskBit (maskOf W spare) (44 + k) ∧
        maskBit m (2 + k) = maskBit (maskOf W spare) (2 + k))) → votedWord m = W

/-- 42_beacon_decoder.md R203: the mask of W is the big-endian form of (W << 86) | (W << 44) | (W << 2) | s, and
BCN_DECODE of it gives V = W in BVOTE. -/
def Obligations.MaskOfThreeCopiesDecodesToItsWord : Prop :=
  (∀ (W : BitVec 42) (spare : BitVec 2) (b : Nat), b < 128 →
    maskBit (maskOf W spare) b =
      ((W.toNat <<< 86) ||| (W.toNat <<< 44) ||| (W.toNat <<< 2) ||| spare.toNat).testBit b) ∧
  ∀ (s : State) (W : BitVec 42) (spare : BitVec 2), s.inlen = 16 → readMask s = maskOf W spare →
    ∃ t, exec .bcnDecode s = .next t ∧ t.bcn.voteLo = W.extractLsb' 0 32 ∧ t.bcn.voteHi = W.extractLsb' 32 10

/-- 42_beacon_decoder.md R181, R182, R184: the mask is IN_BUF[0..16); BCN_VOTE of a 16-byte input reports OK with V in
BVOTE, every other beacon result register 0; any other INLEN raises InvalidLength with them all 0. Nothing else
changes. -/
def Obligations.BcnVoteReportsTheVote : Prop :=
  (∀ (s : State) (k : Fin 16), (readMask s)[k.val] = readByte s (0x1000 + k.val)) ∧
  ∀ s : State,
    (s.inlen = 16 → exec .bcnVote s = .next { s with
      bcn := voteOnly (votedWord (readMask s)), status := okStatus s.status.keyed false false, outlen := 0 }) ∧
    (s.inlen ≠ 16 → exec .bcnVote s = .next { s with
      bcn := BeaconRegs.zero, status := errStatus s.status.keyed .invalidLength, outlen := 0 })

/-- 42_beacon_decoder.md R182, R185, R194, R200: BCN_DECODE of a protocol-1 mask accepts it, keyed or not, with TOKEN
= V[39:16], RESV = V[15:0] and the raw rssi; every other result register is 0 but BVOTE and BPROTO. -/
def Obligations.BcnDecodeAcceptsProtocolOne : Prop :=
  ∀ (s : State) (V : BitVec 42), s.inlen = 16 → V = votedWord (readMask s) → V.extractLsb' 40 2 = 1 →
    exec .bcnDecode s = .next { s with
      bcn := { voteOnly V with
        proto := 1, token := V.extractLsb' 16 24, resv := V.extractLsb' 0 16, rssiOut := s.brssi }
      status := okStatus s.status.keyed false true, outlen := 0 }

/-- 42_beacon_decoder.md R182, R185, R195 to R199: BCN_DECODE of a protocol-0 mask whose sphere matches, keyed, whose
decrypted time word is the sentinel or within one tick of NOW, accepts it with every result register as the stages
write it; the rssi is the byte of clamp(r + (OFF - 8) * 2, -127, -1). -/
def Obligations.BcnDecodeAcceptsProtocolZero : Prop :=
  ∀ (s : State) (V : BitVec 42) (d : Half × Half), s.inlen = 16 → V = votedWord (readMask s) →
    V.extractLsb' 40 2 = 0 → V.extractLsb' 32 8 = s.bcfg → s.status.keyed = true →
    d = rc5Dec s.subkeys (V.extractLsb' 16 16) (V.extractLsb' 0 16) →
    (d.1 = 0xCAFE ∨ d.1 = timeTick s.now ∨ d.1 = timeTick s.now + 1 ∨ d.1 = timeTick s.now - 1) →
    exec .bcnDecode s = .next { s with
      bcn := { voteOnly V with
        proto := 0, sphere := V.extractLsb' 32 8, enc := V.extractLsb' 0 16 ++ V.extractLsb' 16 16,
        dec := d.2 ++ d.1, loc := d.2.extractLsb' 10 6, prof := d.2.extractLsb' 7 3, off := d.2.extractLsb' 3 4,
        flags := d.2.extractLsb' 0 3,
        rssiOut := BitVec.ofInt 8 (max (-127) (min (-1)
          (s.brssi.toInt + (((d.2.extractLsb' 3 4).toNat : Int) - 8) * 2))) }
      status := okStatus true false true, outlen := 0 }

/-- 42_beacon_decoder.md R182, R184, R194 to R197, 60_exceptions.md R275: where BCN_DECODE ends short, in the order of
the checks: InvalidLength, Drop(2), Drop(3), NotKeyed, Drop(4), each with the results of the stages completed and 0 in
the rest. -/
def Obligations.BcnDecodeEndsShortInOrder : Prop :=
  ∀ s : State,
    (s.inlen ≠ 16 → exec .bcnDecode s = .next { s with
      bcn := BeaconRegs.zero, status := errStatus s.status.keyed .invalidLength, outlen := 0 }) ∧
    ∀ V : BitVec 42, s.inlen = 16 → V = votedWord (readMask s) →
      (2 ≤ (V.extractLsb' 40 2).toNat → exec .bcnDecode s = .next { s with
        bcn := { voteOnly V with proto := V.extractLsb' 40 2 },
        status := droppedStatus s.status.keyed .protocol, outlen := 0 }) ∧
      (V.extractLsb' 40 2 = 0 → V.extractLsb' 32 8 ≠ s.bcfg → exec .bcnDecode s = .next { s with
        bcn := { voteOnly V with sphere := V.extractLsb' 32 8 },
        status := droppedStatus s.status.keyed .sphere, outlen := 0 }) ∧
      (V.extractLsb' 40 2 = 0 → V.extractLsb' 32 8 = s.bcfg → s.status.keyed = false →
        exec .bcnDecode s = .next { s with
          bcn := { voteOnly V with
            sphere := V.extractLsb' 32 8, enc := V.extractLsb' 0 16 ++ V.extractLsb' 16 16 },
          status := errStatus false .notKeyed, outlen := 0 }) ∧
      (V.extractLsb' 40 2 = 0 → V.extractLsb' 32 8 = s.bcfg → s.status.keyed = true →
        ∀ d : Half × Half, d = rc5Dec s.subkeys (V.extractLsb' 16 16) (V.extractLsb' 0 16) →
        ¬ (d.1 = 0xCAFE ∨ d.1 = timeTick s.now ∨ d.1 = timeTick s.now + 1 ∨ d.1 = timeTick s.now - 1) →
        exec .bcnDecode s = .next { s with
          bcn := { voteOnly V with
            sphere := V.extractLsb' 32 8, enc := V.extractLsb' 0 16 ++ V.extractLsb' 16 16, dec := d.2 ++ d.1 },
          status := droppedStatus true .time, outlen := 0 })

/-- 42_beacon_decoder.md R197: Tnow is (NOW >> 7) mod 2^16, and a time word passes exactly when it is 0xCAFE or
differs from Tnow by -1, 0 or 1 modulo 2^16. -/
def Obligations.TimeWindowWraps : Prop :=
  ∀ (d : Half) (now : Word),
    (timeTick now).toNat = now.toNat / 128 % 65536 ∧
    (timeValid d now = true ↔
      d.toNat = 0xCAFE ∨ d.toNat = (now.toNat / 128) % 65536 ∨ d.toNat = (now.toNat / 128 + 1) % 65536 ∨
        d.toNat = (now.toNat / 128 + 65535) % 65536)

/-- 42_beacon_decoder.md R199: the adjusted rssi, read as int8, is clamp(r + (OFF - 8) * 2, -127, -1), so it lies in
[-127, -1]. -/
def Obligations.AdjustedRssiIsClamped : Prop :=
  ∀ (r : Byte) (off : BitVec 4),
    (adjustedRssi r off).toInt = max (-127) (min (-1) (r.toInt + ((off.toNat : Int) - 8) * 2)) ∧
    -127 ≤ (adjustedRssi r off).toInt ∧ (adjustedRssi r off).toInt ≤ -1

/-- 42_beacon_decoder.md R188 to R190: Locate is the walk of R190 from offset 0: it drops at the end of the record, at a
zero length and at an overrun, checks the first 0xFF structure, and goes on past any other (the model's fuel never runs
out). The check gives nothing unless there are 19 data bytes, bytes 0 and 1 are the company id, low then high, and byte 2
is 0x01, and then gives bytes 3 to 18. -/
def Obligations.LocateFollowsTheWalk : Prop :=
  (∀ (cid : BitVec 16) (R : List Byte), locate cid R = locateFrom cid R (R.length + 1) 0) ∧
  (∀ (cid : BitVec 16) (f : List Byte),
    (f.length ≠ 19 ∨ f.getD 0 0 ≠ cid.extractLsb' 0 8 ∨ f.getD 1 0 ≠ cid.extractLsb' 8 8 ∨ f.getD 2 0 ≠ 0x01 →
      manufacturerMask cid f = none) ∧
    (f.length = 19 → f.getD 0 0 = cid.extractLsb' 0 8 → f.getD 1 0 = cid.extractLsb' 8 8 → f.getD 2 0 = 0x01 →
      ∃ m, manufacturerMask cid f = some m ∧ ∀ k : Fin 16, m[k.val] = f.getD (3 + k.val) 0)) ∧
  ∀ (cid : BitVec 16) (R : List Byte) (pos len : Nat), len = (R.getD pos 0).toNat →
    locateFrom cid R (R.length + 1) pos =
      if R.length ≤ pos then none
      else if len = 0 then none
      else if R.length < pos + 1 + len then none
      else if R.getD (pos + 1) 0 = 0xFF then manufacturerMask cid ((R.drop (pos + 2)).take (len - 1))
      else locateFrom cid R (R.length + 1) (pos + 1 + len)

/-- 42_beacon_decoder.md R186 to R190: a record that holds whole foreign structures, none of type 0xFF, then the
manufacturer field of the company id and a mask, then anything, locates that mask. -/
def Obligations.LocateFindsTheFirstManufacturerField : Prop :=
  ∀ (cid : BitVec 16) (m : Bytes16) (pre post : List Byte), ForeignPrefix pre →
    locate cid (pre ++ manufacturerField cid m ++ post) = some m

/-- 42_beacon_decoder.md R183: BCN_SCAN of a record whose mask is located ends exactly as BCN_DECODE of that mask in
IN_BUF[0..16) does, in its beacon results, STATUS and OUTLEN, and changes nothing else. COMPANY_ID is the open
parameter (log entry 7). -/
def Obligations.BcnScanDecodesTheLocatedMask : Prop :=
  ∀ (s u : State) (m : Bytes16), s.inlen.toNat ≤ 4096 →
    locate Config.companyId (readBytes s 0x1000 s.inlen.toNat) = some m →
    readMask u = m → u.inlen = 16 → u.bcfg = s.bcfg → u.now = s.now → u.brssi = s.brssi →
    u.subkeys = s.subkeys → u.status.keyed = s.status.keyed →
    ∃ t v, exec .bcnScan s = .next t ∧ exec .bcnDecode u = .next v ∧
      t = { s with bcn := v.bcn, status := v.status, outlen := v.outlen }

/-- 42_beacon_decoder.md R183, R194 to R200: BCN_SCAN of a record whose mask is located accepts a protocol-1 mask, and a
protocol-0 mask of the configured sphere with a valid time word when keyed, with the same results as BCN_DECODE. -/
def Obligations.BcnScanAcceptsLocatedRecords : Prop :=
  ∀ (s : State) (m : Bytes16) (V : BitVec 42) (d : Half × Half), s.inlen.toNat ≤ 4096 →
    locate Config.companyId (readBytes s 0x1000 s.inlen.toNat) = some m → V = votedWord m →
    (V.extractLsb' 40 2 = 1 → exec .bcnScan s = .next { s with
      bcn := { voteOnly V with
        proto := 1, token := V.extractLsb' 16 24, resv := V.extractLsb' 0 16, rssiOut := s.brssi }
      status := okStatus s.status.keyed false true, outlen := 0 }) ∧
    (V.extractLsb' 40 2 = 0 → V.extractLsb' 32 8 = s.bcfg → s.status.keyed = true →
      d = rc5Dec s.subkeys (V.extractLsb' 16 16) (V.extractLsb' 0 16) →
      (d.1 = 0xCAFE ∨ d.1 = timeTick s.now ∨ d.1 = timeTick s.now + 1 ∨ d.1 = timeTick s.now - 1) →
      exec .bcnScan s = .next { s with
        bcn := { voteOnly V with
          proto := 0, sphere := V.extractLsb' 32 8, enc := V.extractLsb' 0 16 ++ V.extractLsb' 16 16,
          dec := d.2 ++ d.1, loc := d.2.extractLsb' 10 6, prof := d.2.extractLsb' 7 3, off := d.2.extractLsb' 3 4,
          flags := d.2.extractLsb' 0 3, rssiOut := adjustedRssi s.brssi (d.2.extractLsb' 3 4) }
        status := okStatus true false true, outlen := 0 })

/-- 42_beacon_decoder.md R183, R190: BCN_SCAN raises InvalidLength when INLEN exceeds 4096, and Drop(1) when no mask is
located, as for an empty record; the beacon results are then all 0 and nothing else changes. -/
def Obligations.BcnScanEndsShort : Prop :=
  ∀ s : State,
    (4096 < s.inlen.toNat → exec .bcnScan s = .next { s with
      bcn := BeaconRegs.zero, status := errStatus s.status.keyed .invalidLength, outlen := 0 }) ∧
    (s.inlen.toNat ≤ 4096 → locate Config.companyId (readBytes s 0x1000 s.inlen.toNat) = none →
      exec .bcnScan s = .next { s with
        bcn := BeaconRegs.zero, status := droppedStatus s.status.keyed .noField, outlen := 0 }) ∧
    (s.inlen = 0 → exec .bcnScan s = .next { s with
        bcn := BeaconRegs.zero, status := droppedStatus s.status.keyed .noField, outlen := 0 })

/-- 42_beacon_decoder.md R184: no beacon command lets a stale result through: what it leaves does not depend on the
beacon results before it. -/
def Obligations.BeaconCommandsForgetStaleResults : Prop :=
  ∀ (i : Instr) (s : State) (b : BeaconRegs), i = .bcnVote ∨ i = .bcnDecode ∨ i = .bcnScan →
    exec i { s with bcn := b } = exec i s

/-! Host services -/

/-- 45_host_services.md R240, R241: who is let in. Numeric comparison among Admin, Member and Guest; a Setup minimum only
by a valid Setup credential in setup mode; everything else refused while enforcement is on, and everyone let in while
it is off. -/
def Obligations.AccessPolicyDecides : Prop :=
  ∀ (h : HostData) (minimum provided : AccessLevel),
    allowAccess h minimum provided = true ↔
      h.enforcement = false ∨
      (minimum = .setup ∧ provided = .setup ∧ h.setupKeyValid = true ∧ h.setupMode = true) ∨
      (minimum ∈ ([.admin, .member, .guest] : List AccessLevel) ∧
        provided ∈ ([.admin, .member, .guest] : List AccessLevel) ∧ levelValue provided ≤ levelValue minimum)

/-- 45_host_services.md R235 to R237: the 8-byte IV seed and the 4-byte tag of both connection modes. -/
def Obligations.SeedsAndTagsFollowTheNonces : Prop :=
  ∀ (h : HostData) (pn : Vector Byte 3),
    (h.sessionMode = true → (ivSeed h pn).toList = pn.toList ++ h.sessionNonce.toList ∧
      (validationTag h).toList = h.sessionNonce.toList.take 4) ∧
    (h.sessionMode = false → (ivSeed h pn).toList = pn.toList ++ Config.defaultTag.toList ++ [0] ∧
      validationTag h = Config.defaultTag)

/-- 45_host_services.md R246: an encryption length is a positive multiple of 16 plus the overhead, the least that holds
the plaintext and its tag; a decryption length is the rest after the overhead and 0 up to it. -/
def Obligations.BufferLengthsFit : Prop :=
  ∀ overhead n : Nat,
    (∃ k, encryptionBufferLength overhead n = 16 * k + overhead ∧ n + 4 ≤ 16 * k ∧ 16 * k < n + 20) ∧
    (n ≤ overhead → decryptionBufferLength overhead n = 0) ∧
    (overhead < n → decryptionBufferLength overhead n + overhead = n)

/-- 45_host_services.md R232, R242, R244, R246 over 41_ctr_engine.md R152: with one key store and host state, a packet of
the host's encrypt has the calculator's length, and the host's decrypt of it into a destination of the plaintext's
size gives the plaintext and the level back, whatever states of the block the two calls start from. -/
def Obligations.PacketsRoundTripThroughTheBlock : Prop :=
  ∀ (getKey : AccessLevel → Bytes16) (h : HostData) (level : AccessLevel) (pn : Vector Byte 3) (pt : List Byte)
    (K : Bytes16) (s u : State), resolveKey getKey h level = .ok K → pt.length ≤ 4092 →
    ∃ t packet, encryptPacket getKey h level pn pt s = .next (t, .ok packet) ∧
      packet.length = encryptionBufferLength packetOverhead pt.length ∧
      ∃ v, decryptPacket getKey h packet pt.length u = .next (v, .ok (pt, levelByte level))
end

