-- ==== Sys2Proof/Laws/Beacon.lean ====
section
/-! SUPPORT. Laws/Beacon.lean: the voter bit by bit, and the locator's walk (42_beacon_decoder.md R188 to R193). -/

namespace Sys2Proof.Machine

open Sys2Proof

/-- A bit of the vote. -/
theorem vote_getLsbD (a b c : BitVec 42) (k : Nat) :
    (vote a b c).getLsbD k =
      ((a.getLsbD k && b.getLsbD k) || (b.getLsbD k && c.getLsbD k) || (a.getLsbD k && c.getLsbD k)) := by
  simp [vote]

/-- More fuel than bytes left changes nothing: the walk stops at the end of the record. -/
theorem locateFrom_fuel (cid : BitVec 16) (R : List Byte) (f g pos : Nat) (hf : R.length < f + pos)
    (hg : R.length < g + pos) (hf' : 0 < f) (hg' : 0 < g) : locateFrom cid R f pos = locateFrom cid R g pos := by
  induction f generalizing g pos with
  | zero => omega
  | succ f ih =>
    cases g with
    | zero => omega
    | succ g =>
      simp only [locateFrom]
      split
      · rfl
      split
      · rfl
      split
      · rfl
      split
      · rfl
      · exact ih g _ (by omega) (by omega) (by omega) (by omega)

/-- The time window as four cases (42 R197). -/
theorem timeValid_iff (d : Half) (now : Word) :
    timeValid d now = true ↔ d = 0xCAFE ∨ d = timeTick now ∨ d = timeTick now + 1 ∨ d = timeTick now - 1 := by
  have e : ∀ x c : Half, d - x = c ↔ d = x + c := by
    intro x c
    constructor <;> intro h
    · rw [← h]; ring
    · rw [h]; ring
  have e1 : ∀ x : Half, x + 0xFFFF = x - 1 := by intro x; bv_omega
  simp only [timeValid, Bool.or_eq_true, beq_iff_eq, e, e1]
  simp [or_assoc]

end Sys2Proof.Machine
end

