-- ==== Sys2Proof/Laws/State.lean ====
section
/-! SUPPORT. Laws/State.lean: one lemma per field and update of State, so that no proof unfolds an update. -/

namespace Sys2Proof.Machine

section

variable (s : State) (w : Word) (st : Status) (n : BitVec 13) (b : BeaconRegs) (k : Bool) (t : Vector Half 26)
  (m : List Host.Cell) (l : List HostAccess)

@[simp] theorem setCmd_cmd : (s.setCmd w).cmd = w := rfl
@[simp] theorem setCmd_status : (s.setCmd w).status = s.status := rfl
@[simp] theorem setCmd_outlen : (s.setCmd w).outlen = s.outlen := rfl
@[simp] theorem setCmd_inlen : (s.setCmd w).inlen = s.inlen := rfl
@[simp] theorem setCmd_outcap : (s.setCmd w).outcap = s.outcap := rfl
@[simp] theorem setCmd_now : (s.setCmd w).now = s.now := rfl
@[simp] theorem setCmd_bcfg : (s.setCmd w).bcfg = s.bcfg := rfl
@[simp] theorem setCmd_brssi : (s.setCmd w).brssi = s.brssi := rfl
@[simp] theorem setCmd_key0 : (s.setCmd w).key0 = s.key0 := rfl
@[simp] theorem setCmd_key1 : (s.setCmd w).key1 = s.key1 := rfl
@[simp] theorem setCmd_key2 : (s.setCmd w).key2 = s.key2 := rfl
@[simp] theorem setCmd_key3 : (s.setCmd w).key3 = s.key3 := rfl
@[simp] theorem setCmd_ivseed0 : (s.setCmd w).ivseed0 = s.ivseed0 := rfl
@[simp] theorem setCmd_ivseed1 : (s.setCmd w).ivseed1 = s.ivseed1 := rfl
@[simp] theorem setCmd_tag : (s.setCmd w).tag = s.tag := rfl
@[simp] theorem setCmd_rc5In : (s.setCmd w).rc5In = s.rc5In := rfl
@[simp] theorem setCmd_rc5Out : (s.setCmd w).rc5Out = s.rc5Out := rfl
@[simp] theorem setCmd_bcn : (s.setCmd w).bcn = s.bcn := rfl
@[simp] theorem setCmd_subkeys : (s.setCmd w).subkeys = s.subkeys := rfl
@[simp] theorem setCmd_mem : (s.setCmd w).mem = s.mem := rfl
@[simp] theorem setCmd_pending : (s.setCmd w).pending = s.pending := rfl
@[simp] theorem setCmd_answers : (s.setCmd w).answers = s.answers := rfl
@[simp] theorem setCmd_draws : (s.setCmd w).draws = s.draws := rfl

@[simp] theorem setResult_cmd : (s.setResult st n).cmd = s.cmd := rfl
@[simp] theorem setResult_status : (s.setResult st n).status = st := rfl
@[simp] theorem setResult_outlen : (s.setResult st n).outlen = n := rfl
@[simp] theorem setResult_inlen : (s.setResult st n).inlen = s.inlen := rfl
@[simp] theorem setResult_outcap : (s.setResult st n).outcap = s.outcap := rfl
@[simp] theorem setResult_now : (s.setResult st n).now = s.now := rfl
@[simp] theorem setResult_bcfg : (s.setResult st n).bcfg = s.bcfg := rfl
@[simp] theorem setResult_brssi : (s.setResult st n).brssi = s.brssi := rfl
@[simp] theorem setResult_key0 : (s.setResult st n).key0 = s.key0 := rfl
@[simp] theorem setResult_key1 : (s.setResult st n).key1 = s.key1 := rfl
@[simp] theorem setResult_key2 : (s.setResult st n).key2 = s.key2 := rfl
@[simp] theorem setResult_key3 : (s.setResult st n).key3 = s.key3 := rfl
@[simp] theorem setResult_ivseed0 : (s.setResult st n).ivseed0 = s.ivseed0 := rfl
@[simp] theorem setResult_ivseed1 : (s.setResult st n).ivseed1 = s.ivseed1 := rfl
@[simp] theorem setResult_tag : (s.setResult st n).tag = s.tag := rfl
@[simp] theorem setResult_rc5In : (s.setResult st n).rc5In = s.rc5In := rfl
@[simp] theorem setResult_rc5Out : (s.setResult st n).rc5Out = s.rc5Out := rfl
@[simp] theorem setResult_bcn : (s.setResult st n).bcn = s.bcn := rfl
@[simp] theorem setResult_subkeys : (s.setResult st n).subkeys = s.subkeys := rfl
@[simp] theorem setResult_mem : (s.setResult st n).mem = s.mem := rfl
@[simp] theorem setResult_pending : (s.setResult st n).pending = s.pending := rfl
@[simp] theorem setResult_answers : (s.setResult st n).answers = s.answers := rfl
@[simp] theorem setResult_draws : (s.setResult st n).draws = s.draws := rfl

@[simp] theorem setRc5Out_cmd : (s.setRc5Out w).cmd = s.cmd := rfl
@[simp] theorem setRc5Out_status : (s.setRc5Out w).status = s.status := rfl
@[simp] theorem setRc5Out_outlen : (s.setRc5Out w).outlen = s.outlen := rfl
@[simp] theorem setRc5Out_inlen : (s.setRc5Out w).inlen = s.inlen := rfl
@[simp] theorem setRc5Out_outcap : (s.setRc5Out w).outcap = s.outcap := rfl
@[simp] theorem setRc5Out_now : (s.setRc5Out w).now = s.now := rfl
@[simp] theorem setRc5Out_bcfg : (s.setRc5Out w).bcfg = s.bcfg := rfl
@[simp] theorem setRc5Out_brssi : (s.setRc5Out w).brssi = s.brssi := rfl
@[simp] theorem setRc5Out_key0 : (s.setRc5Out w).key0 = s.key0 := rfl
@[simp] theorem setRc5Out_key1 : (s.setRc5Out w).key1 = s.key1 := rfl
@[simp] theorem setRc5Out_key2 : (s.setRc5Out w).key2 = s.key2 := rfl
@[simp] theorem setRc5Out_key3 : (s.setRc5Out w).key3 = s.key3 := rfl
@[simp] theorem setRc5Out_ivseed0 : (s.setRc5Out w).ivseed0 = s.ivseed0 := rfl
@[simp] theorem setRc5Out_ivseed1 : (s.setRc5Out w).ivseed1 = s.ivseed1 := rfl
@[simp] theorem setRc5Out_tag : (s.setRc5Out w).tag = s.tag := rfl
@[simp] theorem setRc5Out_rc5In : (s.setRc5Out w).rc5In = s.rc5In := rfl
@[simp] theorem setRc5Out_rc5Out : (s.setRc5Out w).rc5Out = w := rfl
@[simp] theorem setRc5Out_bcn : (s.setRc5Out w).bcn = s.bcn := rfl
@[simp] theorem setRc5Out_subkeys : (s.setRc5Out w).subkeys = s.subkeys := rfl
@[simp] theorem setRc5Out_mem : (s.setRc5Out w).mem = s.mem := rfl
@[simp] theorem setRc5Out_pending : (s.setRc5Out w).pending = s.pending := rfl
@[simp] theorem setRc5Out_answers : (s.setRc5Out w).answers = s.answers := rfl
@[simp] theorem setRc5Out_draws : (s.setRc5Out w).draws = s.draws := rfl

@[simp] theorem setBcn_cmd : (s.setBcn b).cmd = s.cmd := rfl
@[simp] theorem setBcn_status : (s.setBcn b).status = s.status := rfl
@[simp] theorem setBcn_outlen : (s.setBcn b).outlen = s.outlen := rfl
@[simp] theorem setBcn_inlen : (s.setBcn b).inlen = s.inlen := rfl
@[simp] theorem setBcn_outcap : (s.setBcn b).outcap = s.outcap := rfl
@[simp] theorem setBcn_now : (s.setBcn b).now = s.now := rfl
@[simp] theorem setBcn_bcfg : (s.setBcn b).bcfg = s.bcfg := rfl
@[simp] theorem setBcn_brssi : (s.setBcn b).brssi = s.brssi := rfl
@[simp] theorem setBcn_key0 : (s.setBcn b).key0 = s.key0 := rfl
@[simp] theorem setBcn_key1 : (s.setBcn b).key1 = s.key1 := rfl
@[simp] theorem setBcn_key2 : (s.setBcn b).key2 = s.key2 := rfl
@[simp] theorem setBcn_key3 : (s.setBcn b).key3 = s.key3 := rfl
@[simp] theorem setBcn_ivseed0 : (s.setBcn b).ivseed0 = s.ivseed0 := rfl
@[simp] theorem setBcn_ivseed1 : (s.setBcn b).ivseed1 = s.ivseed1 := rfl
@[simp] theorem setBcn_tag : (s.setBcn b).tag = s.tag := rfl
@[simp] theorem setBcn_rc5In : (s.setBcn b).rc5In = s.rc5In := rfl
@[simp] theorem setBcn_rc5Out : (s.setBcn b).rc5Out = s.rc5Out := rfl
@[simp] theorem setBcn_bcn : (s.setBcn b).bcn = b := rfl
@[simp] theorem setBcn_subkeys : (s.setBcn b).subkeys = s.subkeys := rfl
@[simp] theorem setBcn_mem : (s.setBcn b).mem = s.mem := rfl
@[simp] theorem setBcn_pending : (s.setBcn b).pending = s.pending := rfl
@[simp] theorem setBcn_answers : (s.setBcn b).answers = s.answers := rfl
@[simp] theorem setBcn_draws : (s.setBcn b).draws = s.draws := rfl

@[simp] theorem setSubkeys_cmd : (s.setSubkeys t).cmd = s.cmd := rfl
@[simp] theorem setSubkeys_status : (s.setSubkeys t).status = s.status := rfl
@[simp] theorem setSubkeys_outlen : (s.setSubkeys t).outlen = s.outlen := rfl
@[simp] theorem setSubkeys_inlen : (s.setSubkeys t).inlen = s.inlen := rfl
@[simp] theorem setSubkeys_outcap : (s.setSubkeys t).outcap = s.outcap := rfl
@[simp] theorem setSubkeys_now : (s.setSubkeys t).now = s.now := rfl
@[simp] theorem setSubkeys_bcfg : (s.setSubkeys t).bcfg = s.bcfg := rfl
@[simp] theorem setSubkeys_brssi : (s.setSubkeys t).brssi = s.brssi := rfl
@[simp] theorem setSubkeys_key0 : (s.setSubkeys t).key0 = s.key0 := rfl
@[simp] theorem setSubkeys_key1 : (s.setSubkeys t).key1 = s.key1 := rfl
@[simp] theorem setSubkeys_key2 : (s.setSubkeys t).key2 = s.key2 := rfl
@[simp] theorem setSubkeys_key3 : (s.setSubkeys t).key3 = s.key3 := rfl
@[simp] theorem setSubkeys_ivseed0 : (s.setSubkeys t).ivseed0 = s.ivseed0 := rfl
@[simp] theorem setSubkeys_ivseed1 : (s.setSubkeys t).ivseed1 = s.ivseed1 := rfl
@[simp] theorem setSubkeys_tag : (s.setSubkeys t).tag = s.tag := rfl
@[simp] theorem setSubkeys_rc5In : (s.setSubkeys t).rc5In = s.rc5In := rfl
@[simp] theorem setSubkeys_rc5Out : (s.setSubkeys t).rc5Out = s.rc5Out := rfl
@[simp] theorem setSubkeys_bcn : (s.setSubkeys t).bcn = s.bcn := rfl
@[simp] theorem setSubkeys_subkeys : (s.setSubkeys t).subkeys = t := rfl
@[simp] theorem setSubkeys_mem : (s.setSubkeys t).mem = s.mem := rfl
@[simp] theorem setSubkeys_pending : (s.setSubkeys t).pending = s.pending := rfl
@[simp] theorem setSubkeys_answers : (s.setSubkeys t).answers = s.answers := rfl
@[simp] theorem setSubkeys_draws : (s.setSubkeys t).draws = s.draws := rfl

@[simp] theorem setKeyed_cmd : (s.setKeyed k).cmd = s.cmd := rfl
@[simp] theorem setKeyed_status : (s.setKeyed k).status = { s.status with keyed := k } := rfl
@[simp] theorem setKeyed_outlen : (s.setKeyed k).outlen = s.outlen := rfl
@[simp] theorem setKeyed_inlen : (s.setKeyed k).inlen = s.inlen := rfl
@[simp] theorem setKeyed_outcap : (s.setKeyed k).outcap = s.outcap := rfl
@[simp] theorem setKeyed_now : (s.setKeyed k).now = s.now := rfl
@[simp] theorem setKeyed_bcfg : (s.setKeyed k).bcfg = s.bcfg := rfl
@[simp] theorem setKeyed_brssi : (s.setKeyed k).brssi = s.brssi := rfl
@[simp] theorem setKeyed_key0 : (s.setKeyed k).key0 = s.key0 := rfl
@[simp] theorem setKeyed_key1 : (s.setKeyed k).key1 = s.key1 := rfl
@[simp] theorem setKeyed_key2 : (s.setKeyed k).key2 = s.key2 := rfl
@[simp] theorem setKeyed_key3 : (s.setKeyed k).key3 = s.key3 := rfl
@[simp] theorem setKeyed_ivseed0 : (s.setKeyed k).ivseed0 = s.ivseed0 := rfl
@[simp] theorem setKeyed_ivseed1 : (s.setKeyed k).ivseed1 = s.ivseed1 := rfl
@[simp] theorem setKeyed_tag : (s.setKeyed k).tag = s.tag := rfl
@[simp] theorem setKeyed_rc5In : (s.setKeyed k).rc5In = s.rc5In := rfl
@[simp] theorem setKeyed_rc5Out : (s.setKeyed k).rc5Out = s.rc5Out := rfl
@[simp] theorem setKeyed_bcn : (s.setKeyed k).bcn = s.bcn := rfl
@[simp] theorem setKeyed_subkeys : (s.setKeyed k).subkeys = s.subkeys := rfl
@[simp] theorem setKeyed_mem : (s.setKeyed k).mem = s.mem := rfl
@[simp] theorem setKeyed_pending : (s.setKeyed k).pending = s.pending := rfl
@[simp] theorem setKeyed_answers : (s.setKeyed k).answers = s.answers := rfl
@[simp] theorem setKeyed_draws : (s.setKeyed k).draws = s.draws := rfl

@[simp] theorem setMem_cmd : (s.setMem m).cmd = s.cmd := rfl
@[simp] theorem setMem_status : (s.setMem m).status = s.status := rfl
@[simp] theorem setMem_outlen : (s.setMem m).outlen = s.outlen := rfl
@[simp] theorem setMem_inlen : (s.setMem m).inlen = s.inlen := rfl
@[simp] theorem setMem_outcap : (s.setMem m).outcap = s.outcap := rfl
@[simp] theorem setMem_now : (s.setMem m).now = s.now := rfl
@[simp] theorem setMem_bcfg : (s.setMem m).bcfg = s.bcfg := rfl
@[simp] theorem setMem_brssi : (s.setMem m).brssi = s.brssi := rfl
@[simp] theorem setMem_key0 : (s.setMem m).key0 = s.key0 := rfl
@[simp] theorem setMem_key1 : (s.setMem m).key1 = s.key1 := rfl
@[simp] theorem setMem_key2 : (s.setMem m).key2 = s.key2 := rfl
@[simp] theorem setMem_key3 : (s.setMem m).key3 = s.key3 := rfl
@[simp] theorem setMem_ivseed0 : (s.setMem m).ivseed0 = s.ivseed0 := rfl
@[simp] theorem setMem_ivseed1 : (s.setMem m).ivseed1 = s.ivseed1 := rfl
@[simp] theorem setMem_tag : (s.setMem m).tag = s.tag := rfl
@[simp] theorem setMem_rc5In : (s.setMem m).rc5In = s.rc5In := rfl
@[simp] theorem setMem_rc5Out : (s.setMem m).rc5Out = s.rc5Out := rfl
@[simp] theorem setMem_bcn : (s.setMem m).bcn = s.bcn := rfl
@[simp] theorem setMem_subkeys : (s.setMem m).subkeys = s.subkeys := rfl
@[simp] theorem setMem_mem : (s.setMem m).mem = m := rfl
@[simp] theorem setMem_pending : (s.setMem m).pending = s.pending := rfl
@[simp] theorem setMem_answers : (s.setMem m).answers = s.answers := rfl
@[simp] theorem setMem_draws : (s.setMem m).draws = s.draws := rfl

@[simp] theorem setPending_cmd : (s.setPending l).cmd = s.cmd := rfl
@[simp] theorem setPending_status : (s.setPending l).status = s.status := rfl
@[simp] theorem setPending_outlen : (s.setPending l).outlen = s.outlen := rfl
@[simp] theorem setPending_inlen : (s.setPending l).inlen = s.inlen := rfl
@[simp] theorem setPending_outcap : (s.setPending l).outcap = s.outcap := rfl
@[simp] theorem setPending_now : (s.setPending l).now = s.now := rfl
@[simp] theorem setPending_bcfg : (s.setPending l).bcfg = s.bcfg := rfl
@[simp] theorem setPending_brssi : (s.setPending l).brssi = s.brssi := rfl
@[simp] theorem setPending_key0 : (s.setPending l).key0 = s.key0 := rfl
@[simp] theorem setPending_key1 : (s.setPending l).key1 = s.key1 := rfl
@[simp] theorem setPending_key2 : (s.setPending l).key2 = s.key2 := rfl
@[simp] theorem setPending_key3 : (s.setPending l).key3 = s.key3 := rfl
@[simp] theorem setPending_ivseed0 : (s.setPending l).ivseed0 = s.ivseed0 := rfl
@[simp] theorem setPending_ivseed1 : (s.setPending l).ivseed1 = s.ivseed1 := rfl
@[simp] theorem setPending_tag : (s.setPending l).tag = s.tag := rfl
@[simp] theorem setPending_rc5In : (s.setPending l).rc5In = s.rc5In := rfl
@[simp] theorem setPending_rc5Out : (s.setPending l).rc5Out = s.rc5Out := rfl
@[simp] theorem setPending_bcn : (s.setPending l).bcn = s.bcn := rfl
@[simp] theorem setPending_subkeys : (s.setPending l).subkeys = s.subkeys := rfl
@[simp] theorem setPending_mem : (s.setPending l).mem = s.mem := rfl
@[simp] theorem setPending_pending : (s.setPending l).pending = l := rfl
@[simp] theorem setPending_answers : (s.setPending l).answers = s.answers := rfl
@[simp] theorem setPending_draws : (s.setPending l).draws = s.draws := rfl

@[simp] theorem addAnswer_cmd : (s.addAnswer w).cmd = s.cmd := rfl
@[simp] theorem addAnswer_status : (s.addAnswer w).status = s.status := rfl
@[simp] theorem addAnswer_outlen : (s.addAnswer w).outlen = s.outlen := rfl
@[simp] theorem addAnswer_inlen : (s.addAnswer w).inlen = s.inlen := rfl
@[simp] theorem addAnswer_outcap : (s.addAnswer w).outcap = s.outcap := rfl
@[simp] theorem addAnswer_now : (s.addAnswer w).now = s.now := rfl
@[simp] theorem addAnswer_bcfg : (s.addAnswer w).bcfg = s.bcfg := rfl
@[simp] theorem addAnswer_brssi : (s.addAnswer w).brssi = s.brssi := rfl
@[simp] theorem addAnswer_key0 : (s.addAnswer w).key0 = s.key0 := rfl
@[simp] theorem addAnswer_key1 : (s.addAnswer w).key1 = s.key1 := rfl
@[simp] theorem addAnswer_key2 : (s.addAnswer w).key2 = s.key2 := rfl
@[simp] theorem addAnswer_key3 : (s.addAnswer w).key3 = s.key3 := rfl
@[simp] theorem addAnswer_ivseed0 : (s.addAnswer w).ivseed0 = s.ivseed0 := rfl
@[simp] theorem addAnswer_ivseed1 : (s.addAnswer w).ivseed1 = s.ivseed1 := rfl
@[simp] theorem addAnswer_tag : (s.addAnswer w).tag = s.tag := rfl
@[simp] theorem addAnswer_rc5In : (s.addAnswer w).rc5In = s.rc5In := rfl
@[simp] theorem addAnswer_rc5Out : (s.addAnswer w).rc5Out = s.rc5Out := rfl
@[simp] theorem addAnswer_bcn : (s.addAnswer w).bcn = s.bcn := rfl
@[simp] theorem addAnswer_subkeys : (s.addAnswer w).subkeys = s.subkeys := rfl
@[simp] theorem addAnswer_mem : (s.addAnswer w).mem = s.mem := rfl
@[simp] theorem addAnswer_pending : (s.addAnswer w).pending = s.pending := rfl
@[simp] theorem addAnswer_answers : (s.addAnswer w).answers = s.answers ++ [w] := rfl
@[simp] theorem addAnswer_draws : (s.addAnswer w).draws = s.draws := rfl

/-- The later of two results stands. -/
@[simp] theorem setResult_setResult (st' : Status) (n' : BitVec 13) :
    (s.setResult st n).setResult st' n' = s.setResult st' n' := rfl

/-- The later of two beacon writes stands. -/
@[simp] theorem setBcn_setBcn (b' : BeaconRegs) : (s.setBcn b).setBcn b' = s.setBcn b' := rfl

/-- The later of two tables stands. -/
@[simp] theorem setSubkeys_setSubkeys (t' : Vector Half 26) : (s.setSubkeys t).setSubkeys t' = s.setSubkeys t' := rfl

/-- Writing back the beacon registers changes nothing. -/
@[simp] theorem setBcn_self : s.setBcn s.bcn = s := rfl

/-- Writing back the table changes nothing. -/
@[simp] theorem setSubkeys_self : s.setSubkeys s.subkeys = s := rfl

end

end Sys2Proof.Machine
end

