-- ==== Sys2Proof/Laws/Memory.lean ====
section
/-! SUPPORT. Laws/Memory.lean: the buffers. A write is read back, leaves every other byte alone and keeps the canonical
form; two memories in canonical form that hold the same bytes are the same list. -/

namespace Sys2Proof.Machine

open Sys2Proof

/-- One written byte is read back, and every other byte is as before. -/
theorem memGet_memSet (m : List Host.Cell) (a : Nat) (v : Byte) (x : Nat) :
    memGet (memSet m a v) x = if x = a then some v else memGet m x := by
  induction m with
  | nil => rfl
  | cons c m ih =>
    obtain ⟨k, b⟩ := c
    simp only [memSet]
    split
    · simp [memGet]
    · split
      · subst k
        by_cases h : x = a <;> simp [memGet, h]
      · simp only [memGet, ih]
        by_cases h : x = k
        · subst h; simp [Ne.symm ‹_›]
        · simp [h]

/-- Writing one byte of a buffer keeps addresses rising from the same bound. -/
theorem memRising_memSet {m : List Host.Cell} {lo a : Nat} (v : Byte) (h : memRising lo m = true) (hlo : lo ≤ a)
    (hhi : a < bufEnd) : memRising lo (memSet m a v) = true := by
  induction m generalizing lo with
  | nil => simp [memSet, memRising, hlo, hhi]
  | cons c m ih =>
    obtain ⟨k, b⟩ := c
    simp only [memRising, Bool.and_eq_true, decide_eq_true_eq] at h
    obtain ⟨⟨h1, h2⟩, h3⟩ := h
    simp only [memSet]
    split
    · simp only [memRising, Bool.and_eq_true, decide_eq_true_eq]
      exact ⟨⟨hlo, hhi⟩, ⟨by omega, h2⟩, h3⟩
    · split
      · subst k
        simp only [memRising, Bool.and_eq_true, decide_eq_true_eq]
        exact ⟨⟨hlo, hhi⟩, h3⟩
      · simp only [memRising, Bool.and_eq_true, decide_eq_true_eq]
        exact ⟨⟨h1, h2⟩, ih h3 (by omega)⟩

/-- Writing bytes inside the buffers keeps the canonical form. -/
theorem memWrite_wf {m : List Host.Cell} {a : Nat} {bs : List Byte} (h : Memory.wf m = true) (hlo : inBase ≤ a)
    (hhi : a + bs.length ≤ bufEnd) : Memory.wf (memWrite m a bs) = true := by
  induction bs generalizing m a with
  | nil => exact h
  | cons b bs ih =>
    simp only [List.length_cons] at hhi
    exact ih (memRising_memSet b h hlo (by omega)) (by omega) (by omega)

/-- Written bytes are read back, and every other byte is as before. -/
theorem memGet_memWrite (m : List Host.Cell) (a : Nat) (bs : List Byte) (x : Nat) :
    memGet (memWrite m a bs) x =
      if h : a ≤ x ∧ x < a + bs.length then some (bs[x - a]'(by omega)) else memGet m x := by
  induction bs generalizing m a with
  | nil =>
    simp [memWrite]
  | cons b bs ih =>
    rw [memWrite, ih, memGet_memSet]
    simp only [List.length_cons]
    by_cases h1 : x = a
    · subst h1
      simp
    · by_cases h2 : a + 1 ≤ x ∧ x < a + 1 + bs.length
      · have h3 : a ≤ x ∧ x < a + (bs.length + 1) := by omega
        have h4 : x - a = (x - (a + 1)) + 1 := by omega
        simp [h2, h3, h4]
      · have h3 : ¬(a ≤ x ∧ x < a + (bs.length + 1)) := by omega
        rw [dif_neg h2, dif_neg h3, if_neg h1]

/-- Nothing is listed below the bound addresses rise from. -/
theorem memGet_below {m : List Host.Cell} {lo a : Nat} (h : memRising lo m = true) (ha : a < lo) :
    memGet m a = unlistedByte := by
  induction m generalizing lo with
  | nil => rfl
  | cons c m ih =>
    obtain ⟨k, b⟩ := c
    simp only [memRising, Bool.and_eq_true, decide_eq_true_eq] at h
    have : a ≠ k := by omega
    simp [memGet, this, ih h.2 (by omega)]

/-- Two memories in canonical form that hold the same bytes are the same list. -/
theorem memRising_ext {m m' : List Host.Cell} {lo lo' : Nat} (h : memRising lo m = true)
    (h' : memRising lo' m' = true) (heq : ∀ a, memGet m a = memGet m' a) : m = m' := by
  induction m generalizing m' lo lo' with
  | nil =>
    cases m' with
    | nil => rfl
    | cons c m' =>
      have := heq c.1
      simp [memGet, unlistedByte] at this
  | cons c m ih =>
    obtain ⟨k, b⟩ := c
    cases m' with
    | nil =>
      have := heq k
      simp [memGet, unlistedByte] at this
    | cons c' m' =>
      obtain ⟨k', b'⟩ := c'
      simp only [memRising, Bool.and_eq_true, decide_eq_true_eq] at h h'
      have hk : k = k' := by
        by_contra hne
        rcases Nat.lt_or_gt_of_ne hne with hlt | hlt
        · have := heq k
          simp [memGet, hne, memGet_below h'.2 (show k < k' + 1 by omega), unlistedByte] at this
        · have := heq k'
          simp [memGet, Ne.symm hne, memGet_below h.2 (show k' < k + 1 by omega), unlistedByte] at this
      subst hk
      have hb : b = b' := by simpa [memGet] using heq k
      subst hb
      have : m = m' := ih h.2 h'.2 fun a => by
        by_cases ha : a = k
        · subst ha
          rw [memGet_below h.2 (by omega), memGet_below h'.2 (by omega)]
        · simpa [memGet, ha] using heq a
      rw [this]

/-- Equal bytes mean equal memories, in canonical form. -/
theorem Memory.wf_ext {m m' : List Host.Cell} (h : Memory.wf m = true) (h' : Memory.wf m' = true)
    (heq : ∀ a, memGet m a = memGet m' a) : m = m' := memRising_ext h h' heq

/-- Memory at reset is in canonical form. -/
theorem Memory.wf_reset : Memory.wf State.reset.mem = true := rfl

/-- A byte reads the same in two states that share memory and draw. -/
theorem readByte_congr {s t : State} (hm : t.mem = s.mem) (hd : t.draws = s.draws) (a : Nat) :
    readByte t a = readByte s a := by simp [readByte, hm, hd]

/-- Reading after a write of a byte string. -/
theorem readByte_memWrite (s : State) (a : Nat) (bs : List Byte) (x : Nat) :
    readByte (s.setMem (memWrite s.mem a bs)) x =
      if h : a ≤ x ∧ x < a + bs.length then bs[x - a]'(by omega) else readByte s x := by
  simp only [readByte, setMem_mem, setMem_draws, memGet_memWrite]
  split <;> simp

/-- Bytes read one by one. -/
@[simp] theorem readBytes_length (s : State) (a n : Nat) : (readBytes s a n).length = n := by simp [readBytes]

/-- The `k`-th byte of a read. -/
@[simp] theorem readBytes_getElem (s : State) (a n k : Nat) (h : k < (readBytes s a n).length) :
    (readBytes s a n)[k] = readByte s (a + k) := by simp [readBytes]

/-- A read depends only on the bytes read. -/
theorem readBytes_congr {s t : State} {a n : Nat} (h : ∀ k, k < n → readByte t (a + k) = readByte s (a + k)) :
    readBytes t a n = readBytes s a n := by
  apply List.ext_getElem <;> simp
  exact h

end Sys2Proof.Machine
end

