-- ==== Sys2Proof/Laws/Ctr.lean ====
section
/-! SUPPORT. Laws/Ctr.lean: byte strings, keystream and frame of the CounterModeEngine, byte by byte
(41_ctr_engine.md R140 to R142). -/

namespace Sys2Proof.Machine

open Sys2Proof

/-- The XOR of two strings is as long as the shorter. -/
@[simp] theorem xorBytes_length (as bs : List Byte) : (xorBytes as bs).length = min as.length bs.length := by
  induction as generalizing bs with
  | nil => simp [xorBytes]
  | cons a as ih => cases bs <;> simp [xorBytes, ih]

/-- The XOR of two strings, byte by byte. -/
@[simp] theorem xorBytes_getElem (as bs : List Byte) (k : Nat) (h : k < (xorBytes as bs).length) :
    (xorBytes as bs)[k] =
      as[k]'(by rw [xorBytes_length] at h; omega) ^^^ bs[k]'(by rw [xorBytes_length] at h; omega) := by
  induction as generalizing bs k with
  | nil => simp [xorBytes] at h
  | cons a as ih =>
    cases bs with
    | nil => simp [xorBytes] at h
    | cons b bs => cases k <;> simp [xorBytes, ih]

/-- One more block of keystream. -/
theorem keystream_succ (E : Bytes16 → Bytes16 → Bytes16) (K : Bytes16) (N : Vector Byte 8) (n : Nat) :
    keystream E K N (n + 1) = keystream E K N n ++ (E K (ivBlock N n)).toList := by
  simp [keystream, List.range_succ, List.flatMap_append]

/-- The keystream of `n` blocks has 16n bytes. -/
@[simp] theorem keystream_length (E : Bytes16 → Bytes16 → Bytes16) (K : Bytes16) (N : Vector Byte 8) (n : Nat) :
    (keystream E K N n).length = 16 * n := by
  induction n with
  | zero => rfl
  | succ n ih => rw [keystream_succ, List.length_append, ih]; simp; omega

/-- Byte `k` of the keystream is byte `k mod 16` of block `k div 16`. -/
theorem keystream_getElem (E : Bytes16 → Bytes16 → Bytes16) (K : Bytes16) (N : Vector Byte 8) (n k : Nat)
    (h : k < (keystream E K N n).length) :
    (keystream E K N n)[k] = (E K (ivBlock N (k / 16))).toList.getD (k % 16) 0 := by
  induction n with
  | zero => simp at h
  | succ n ih =>
    have h' : k < 16 * (n + 1) := by simpa using h
    simp only [keystream_succ, List.getElem_append]
    split
    · exact ih _
    · rename_i hk
      simp only [keystream_length] at hk ⊢
      have h1 : k / 16 = n := by omega
      have h2 : k - 16 * n = k % 16 := by omega
      have h3 : k % 16 < 16 := Nat.mod_lt _ (by decide)
      simp [h1, h2, h3, List.getD_eq_getElem?_getD]

/-- The tag has four bytes. -/
@[simp] theorem tagBytes_length (s : State) : (tagBytes s).length = 4 := rfl

/-- The frame fills the ciphertext's length. -/
theorem ctrFrame_length (T pay : List Byte) (L : Nat) (hT : T.length = 4) (h : pay.length ≤ L - 4) (hL : 4 ≤ L) :
    (ctrFrame T pay L).length = L := by
  simp [ctrFrame, zeroBytes, hT]; omega

/-- A length check passes exactly for a positive multiple of 16 up to 4096. -/
theorem blockLength_iff (L : Nat) : blockLength L = true ↔ L ≠ 0 ∧ L % 16 = 0 ∧ L ≤ 4096 := by
  change _ ↔ L ≠ 0 ∧ L % 16 = 0 ∧ L ≤ bufBytes
  simp only [blockLength, Bool.and_eq_true, bne_iff_ne, beq_iff_eq, decide_eq_true_eq, and_assoc]

end Sys2Proof.Machine
end

