-- ==== Sys2Proof/Laws/Commands.lean ====
section
/-! SUPPORT. Laws/Commands.lean: everything a command can do, said once. Every command answers a next state that differs
from its start in at most the memory, RC5_OUT, the beacon registers, the subkey table, STATUS and OUTLEN; the lemmas
below say which of these each family touches. -/

namespace Sys2Proof.Machine

open Sys2Proof

/-- Setting KEYED before a result is setting it in the result. -/
@[simp] theorem setKeyed_setResult (s : State) (k : Bool) (st : Status) (n : BitVec 13) :
    (s.setKeyed k).setResult st n = s.setResult st n := rfl

/-- RC5_SETKEY as one update. -/
theorem rc5SetKey_eq (s : State) :
    rc5SetKey s = (s.setSubkeys (rc5KeyExpand (keyBytes s))).setResult
      { err := .ok, keyed := true, trunc := false, bvalid := false, drop := .noDrop } 0 := by
  simp only [rc5SetKey, complete, completeStatus, setKeyed_setResult, setKeyed_status, BitVec.ofNat_eq_ofNat]

/-- A block command with a key. -/
theorem rc5Block_keyed (f : Vector Half 26 → Half → Half → Half × Half) {s : State} (h : s.status.keyed = true) :
    rc5Block f s =
      complete 0 false false (s.setRc5Out (blockWord (f s.subkeys (lowHalf s.rc5In) (highHalf s.rc5In)))) := by
  rw [rc5Block, if_pos h]

/-- A block command without a key. -/
theorem rc5Block_unkeyed (f : Vector Half 26 → Half → Half → Half × Half) {s : State} (h : s.status.keyed = false) :
    rc5Block f s = raiseError .notKeyed s := by
  rw [rc5Block, if_neg (by simp [h])]

/-- CTR_ENCRYPT with good lengths. -/
theorem ctrEncrypt_ok (E : Bytes16 → Bytes16 → Bytes16) {s : State} (hL : blockLength s.outcap.toNat = true)
    (hp : s.inlen.toNat ≤ s.outcap.toNat - 4) :
    ctrEncrypt E s = complete s.outcap.toNat false false (writeOut
      (ctrCipher E (keyBytes s) (seedBytes s) (tagBytes s) (readIn s s.inlen.toNat) s.outcap.toNat) s) := by
  rw [ctrEncrypt, hL, if_neg (by simp), if_neg (by omega)]

/-- CTR_ENCRYPT with bad lengths. -/
theorem ctrEncrypt_bad (E : Bytes16 → Bytes16 → Bytes16) {s : State}
    (h : blockLength s.outcap.toNat = false ∨ s.outcap.toNat - 4 < s.inlen.toNat) :
    ctrEncrypt E s = raiseError .invalidLength s := by
  rw [ctrEncrypt]
  rcases h with h | h
  · rw [if_pos (by simp [h])]
  · rw [if_pos h, ite_self]

/-- CTR_DECRYPT with bad lengths. -/
theorem ctrDecrypt_bad (E : Bytes16 → Bytes16 → Bytes16) {s : State}
    (h : blockLength s.inlen.toNat = false ∨ bufBytes < s.outcap.toNat) :
    ctrDecrypt E s = raiseError .invalidLength s := by
  rw [ctrDecrypt]
  rcases h with h | h
  · rw [if_pos (by simp [h])]
  · rw [if_pos h, ite_self]

/-- CTR_DECRYPT with good lengths and a tag that does not match. -/
theorem ctrDecrypt_mismatch (E : Bytes16 → Bytes16 → Bytes16) {s : State} (hc : blockLength s.inlen.toNat = true)
    (hD : s.outcap.toNat ≤ bufBytes)
    (ht : (ctrPlain E (keyBytes s) (seedBytes s) (readIn s s.inlen.toNat)).take 4 ≠ tagBytes s) :
    ctrDecrypt E s = raiseError .validationFailed s := by
  rw [ctrDecrypt, hc, if_neg (by simp), if_neg (by omega), if_pos ht]

/-- CTR_DECRYPT with good lengths and a matching tag. -/
theorem ctrDecrypt_ok (E : Bytes16 → Bytes16 → Bytes16) {s : State} (hc : blockLength s.inlen.toNat = true)
    (hD : s.outcap.toNat ≤ bufBytes)
    (ht : (ctrPlain E (keyBytes s) (seedBytes s) (readIn s s.inlen.toNat)).take 4 = tagBytes s) :
    ctrDecrypt E s =
      complete (min s.outcap.toNat (s.inlen.toNat - 4))
        (decide (min s.outcap.toNat (s.inlen.toNat - 4) < s.inlen.toNat - 4)) false
        (writeOut (((ctrPlain E (keyBytes s) (seedBytes s) (readIn s s.inlen.toNat)).drop 4).take
          (min s.outcap.toNat (s.inlen.toNat - 4))) s) := by
  rw [ctrDecrypt, hc, if_neg (by simp), if_neg (by omega), if_neg (not_not.mpr ht)]

/-- The beacon registers of stage 4: the vote and the protocol field are written. -/
def stageFour (V : BitVec 42) (b : BeaconRegs) : BeaconRegs :=
  { b with voteLo := V.extractLsb' 0 32, voteHi := V.extractLsb' 32 10, proto := protoField V }

/-- Stages 2 to 4 as one write. -/
theorem decodeMask_eq (m : Bytes16) (s : State) :
    decodeMask m s = dispatchProto (votedWord m) (s.setBcn (stageFour (votedWord m) s.bcn)) := by
  rw [decodeMask]
  generalize votedWord m = V
  rfl

/-- Stage 8. -/
theorem dispatchProto_one {V : BitVec 42} (s : State) (h : protoField V = 1) :
    dispatchProto V s = (s.setBcn { s.bcn with
      token := tokenField V, resv := resvField V, rssiOut := s.brssi }).setResult
        (completeStatus false true s.status) 0 := by
  rw [dispatchProto, if_pos h]
  rfl

/-- Protocols 2 and 3. -/
theorem dispatchProto_other {V : BitVec 42} (s : State) (h1 : protoField V ≠ 1) (h0 : protoField V ≠ 0) :
    dispatchProto V s = s.setResult (dropStatus .protocol s.status) 0 := by
  rw [dispatchProto, if_neg h1, if_neg h0, raiseDrop]

/-- Stage 5 on a foreign sphere. -/
theorem dispatchProto_sphere {V : BitVec 42} {s : State} (h0 : protoField V = 0) (hs : sphereField V ≠ s.bcfg) :
    dispatchProto V s = (s.setBcn { s.bcn with sphere := sphereField V }).setResult
      (dropStatus .sphere s.status) 0 := by
  rw [dispatchProto, if_neg (by rw [h0]; decide), if_pos h0, protocol0, if_neg hs]
  rfl

/-- Stage 6 without a key. -/
theorem dispatchProto_unkeyed {V : BitVec 42} {s : State} (h0 : protoField V = 0) (hs : sphereField V = s.bcfg)
    (hk : s.status.keyed = false) :
    dispatchProto V s = (s.setBcn { s.bcn with
      sphere := sphereField V, enc := wordOfHalves (encField0 V) (encField1 V) }).setResult
        (errorStatus .notKeyed s.status) 0 := by
  rw [dispatchProto, if_neg (by rw [h0]; decide), if_pos h0, protocol0, if_pos hs, decryptRecord,
    if_neg (by simp [recordEnc, recordSphere, hk])]
  rfl

/-- Stage 6 outside the time window. -/
theorem dispatchProto_late {V : BitVec 42} {s : State} {d : Half × Half} (h0 : protoField V = 0)
    (hs : sphereField V = s.bcfg) (hk : s.status.keyed = true)
    (hd : d = rc5Dec s.subkeys (encField0 V) (encField1 V)) (ht : timeValid d.1 s.now = false) :
    dispatchProto V s = (s.setBcn { s.bcn with
      sphere := sphereField V, enc := wordOfHalves (encField0 V) (encField1 V), dec := blockWord d }).setResult
        (dropStatus .time s.status) 0 := by
  rw [dispatchProto, if_neg (by rw [h0]; decide), if_pos h0, protocol0, if_pos hs, decryptRecord,
    if_pos (by simp [recordEnc, recordSphere, hk])]
  simp only [recordEnc, recordSphere, recordDec, setBcn_subkeys, ← hd, acceptDecoded, setBcn_now, ht]
  rfl

/-- Stages 6 and 7 of an accepted record. -/
theorem dispatchProto_accept {V : BitVec 42} {s : State} {d : Half × Half} (h0 : protoField V = 0)
    (hs : sphereField V = s.bcfg) (hk : s.status.keyed = true)
    (hd : d = rc5Dec s.subkeys (encField0 V) (encField1 V)) (ht : timeValid d.1 s.now = true) :
    dispatchProto V s = (s.setBcn { s.bcn with
      sphere := sphereField V, enc := wordOfHalves (encField0 V) (encField1 V), dec := blockWord d,
      loc := d.2.extractLsb' 10 6, prof := d.2.extractLsb' 7 3, off := d.2.extractLsb' 3 4,
      flags := d.2.extractLsb' 0 3, rssiOut := adjustedRssi s.brssi (d.2.extractLsb' 3 4) }).setResult
        (completeStatus false true s.status) 0 := by
  rw [dispatchProto, if_neg (by rw [h0]; decide), if_pos h0, protocol0, if_pos hs, decryptRecord,
    if_pos (by simp [recordEnc, recordSphere, hk])]
  simp only [recordEnc, recordSphere, recordDec, setBcn_subkeys, ← hd, acceptDecoded, setBcn_now, ht]
  rfl

/-- Stages 4 to 8 read only V, the sphere id, the time, the raw rssi, the subkeys and KEYED, and write only the beacon
registers, STATUS and OUTLEN: a state that agrees on what is read gets the same results. -/
theorem dispatchProto_transfer (V : BitVec 42) (s u : State) (b : BeaconRegs) (h1 : u.bcfg = s.bcfg)
    (h2 : u.now = s.now) (h3 : u.brssi = s.brssi) (h4 : u.subkeys = s.subkeys)
    (h5 : u.status.keyed = s.status.keyed) :
    dispatchProto V (s.setBcn b) = { s with
      bcn := (dispatchProto V (u.setBcn b)).bcn, status := (dispatchProto V (u.setBcn b)).status,
      outlen := (dispatchProto V (u.setBcn b)).outlen } := by
  by_cases p1 : protoField V = 1
  · rw [dispatchProto_one _ p1, dispatchProto_one _ p1]
    simp [State.setResult, State.setBcn, completeStatus, h3, h5]
  by_cases p0 : protoField V = 0
  · by_cases hs : sphereField V = s.bcfg
    · have hu : sphereField V = u.bcfg := hs.trans h1.symm
      cases hk : s.status.keyed with
      | false =>
        rw [dispatchProto_unkeyed p0 (by exact hs) (by exact hk),
          dispatchProto_unkeyed p0 (by exact hu) (by exact h5.trans hk)]
        simp [State.setResult, State.setBcn, errorStatus, h5]
      | true =>
        cases ht : timeValid (rc5Dec s.subkeys (encField0 V) (encField1 V)).1 s.now with
        | false =>
          rw [dispatchProto_late p0 (by exact hs) (by exact hk) rfl (by exact ht),
            dispatchProto_late p0 (by exact hu) (by exact h5.trans hk) rfl
              (by simp only [setBcn_subkeys, setBcn_now, h4, h2]; exact ht)]
          simp [State.setResult, State.setBcn, dropStatus, h5, h4]
        | true =>
          rw [dispatchProto_accept p0 (by exact hs) (by exact hk) rfl (by exact ht),
            dispatchProto_accept p0 (by exact hu) (by exact h5.trans hk) rfl
              (by simp only [setBcn_subkeys, setBcn_now, h4, h2]; exact ht)]
          simp [State.setResult, State.setBcn, completeStatus, h5, h4, h3]
    · rw [dispatchProto_sphere p0 (by exact hs), dispatchProto_sphere p0 (by exact fun e => hs (e.trans h1))]
      simp [State.setResult, State.setBcn, dropStatus, h5]
  · rw [dispatchProto_other _ p1 p0, dispatchProto_other _ p1 p0]
    simp [State.setResult, State.setBcn, dropStatus, h5]

/-- What can end a command: KEYED is as given, no host-only code, a drop reason exactly with NotFound, TRUNC and BVALID
only with OK and never together (60_exceptions.md R272 to R274). -/
def EndStatus (keyed : Bool) (st : Status) : Prop :=
  st.keyed = keyed ∧ st.err ≠ .keyUnavailable ∧ st.err ≠ .unsupported ∧ (st.drop ≠ .noDrop ↔ st.err = .notFound) ∧
    (st.trunc = true → st.err = .ok ∧ st.bvalid = false) ∧ (st.bvalid = true → st.err = .ok)

/-- A drop's status can end a command. -/
theorem dropStatus_end {d : DropReason} (st : Status) (h : d ≠ .noDrop) : EndStatus st.keyed (dropStatus d st) := by
  simp [EndStatus, dropStatus, h]

/-- The status of an error the block raises can end a command. -/
theorem errorStatus_end {e : ErrCode} (st : Status) (h : e ≠ .keyUnavailable ∧ e ≠ .unsupported ∧ e ≠ .notFound) :
    EndStatus st.keyed (errorStatus e st) := by
  simp [EndStatus, errorStatus, h]

/-- The status of success can end a command. -/
theorem completeStatus_end {t b : Bool} (st : Status) (h : t = true → b = false) :
    EndStatus st.keyed (completeStatus t b st) := by
  cases t <;> simp_all [EndStatus, completeStatus]

/-- A beacon result shows nothing of the RC5 engine. -/
def NothingDecrypted (b : BeaconRegs) : Prop := b.dec = 0 ∧ b.loc = 0 ∧ b.prof = 0 ∧ b.off = 0 ∧ b.flags = 0

/-- Everything stages 2 to 8 can do from cleared registers: one write of the beacon registers and a result with OUTLEN
0; BPROTO is the vote's field; an accepted record is of protocol 0 or 1; nothing is decrypted without a key. -/
theorem decodeMask_form (m : Bytes16) (s : State) (hz : s.bcn = BeaconRegs.zero) :
    ∃ b st, decodeMask m s = (s.setBcn b).setResult st 0 ∧ EndStatus s.status.keyed st ∧
      b.proto = b.voteHi.extractLsb' 8 2 ∧ (st.bvalid = true → b.proto = 0 ∨ b.proto = 1) ∧
      (s.status.keyed = false → NothingDecrypted b) := by
  rw [decodeMask_eq]
  generalize votedWord m = V
  have hp : protoField V = (V.extractLsb' 32 10).extractLsb' 8 2 := by
    ext i hi
    have hb : 8 + i < 10 := by omega
    simp [protoField, hb, ← Nat.add_assoc]
  by_cases h1 : protoField V = 1
  · rw [dispatchProto_one _ h1]
    exact ⟨_, _, rfl, completeStatus_end _ (by simp), hp, fun _ => .inr h1, fun _ => by
      simp [NothingDecrypted, stageFour, hz, BeaconRegs.zero]⟩
  by_cases h0 : protoField V = 0
  · by_cases hs : sphereField V = s.bcfg
    · cases hk : s.status.keyed with
      | false =>
        rw [dispatchProto_unkeyed (s := s.setBcn (stageFour V s.bcn)) h0 hs hk]
        exact ⟨_, _, rfl, hk ▸ errorStatus_end _ (by simp), hp, by simp [errorStatus], fun _ => by
          simp [NothingDecrypted, stageFour, hz, BeaconRegs.zero]⟩
      | true =>
        cases ht : timeValid (rc5Dec s.subkeys (encField0 V) (encField1 V)).1 s.now with
        | false =>
          rw [dispatchProto_late (s := s.setBcn (stageFour V s.bcn)) h0 hs hk rfl ht]
          exact ⟨_, _, rfl, hk ▸ dropStatus_end _ (by simp), hp, by simp [dropStatus], by simp⟩
        | true =>
          rw [dispatchProto_accept (s := s.setBcn (stageFour V s.bcn)) h0 hs hk rfl ht]
          exact ⟨_, _, rfl, hk ▸ completeStatus_end _ (by simp), hp, fun _ => .inl h0, by simp⟩
    · rw [dispatchProto_sphere (s := s.setBcn (stageFour V s.bcn)) h0 hs]
      exact ⟨_, _, rfl, dropStatus_end _ (by simp), hp, by simp [dropStatus], fun _ => by
        simp [NothingDecrypted, stageFour, hz, BeaconRegs.zero]⟩
  · rw [dispatchProto_other _ h1 h0]
    exact ⟨_, _, rfl, dropStatus_end _ (by simp), hp, by simp [dropStatus], fun _ => by
      simp [NothingDecrypted, stageFour, hz, BeaconRegs.zero]⟩

/-- What a beacon command can do: write the beacon registers and a result with OUTLEN 0. -/
def BeaconStep (s t : State) : Prop :=
  ∃ b st, t = (s.setBcn b).setResult st 0 ∧ EndStatus s.status.keyed st ∧
    (b.proto = 0 ∨ b.proto = b.voteHi.extractLsb' 8 2) ∧ (st.bvalid = true → b.proto = 0 ∨ b.proto = 1) ∧
    (s.status.keyed = false → NothingDecrypted b)

/-- A beacon command that ends before stage 3. -/
theorem clearBeacon_step (s : State) {st : Status} (h : EndStatus s.status.keyed st) (hv : st.bvalid = false) :
    BeaconStep s ((clearBeacon s).setResult st 0) :=
  ⟨BeaconRegs.zero, st, rfl, h, .inl rfl, by simp [hv], fun _ => ⟨rfl, rfl, rfl, rfl, rfl⟩⟩

/-- A beacon command that runs the stages. -/
theorem decodeMask_step (m : Bytes16) (s : State) : BeaconStep s (decodeMask m (clearBeacon s)) := by
  obtain ⟨b, st, h, he, hp, hv, hd⟩ := decodeMask_form m (clearBeacon s) rfl
  exact ⟨b, st, h, he, .inr hp, hv, hd⟩

/-- BCN_VOTE is a beacon step. -/
theorem bcnVote_step (s : State) : BeaconStep s (bcnVote s) := by
  rw [bcnVote]
  split
  · exact clearBeacon_step s (errorStatus_end (clearBeacon s).status (by simp)) rfl
  · generalize votedWord (readMask s) = V
    exact ⟨{ BeaconRegs.zero with voteLo := V.extractLsb' 0 32, voteHi := V.extractLsb' 32 10 },
      completeStatus false false s.status, rfl, completeStatus_end _ (by simp), .inl rfl, by simp [completeStatus],
      fun _ => ⟨rfl, rfl, rfl, rfl, rfl⟩⟩

/-- BCN_DECODE is a beacon step. -/
theorem bcnDecode_step (s : State) : BeaconStep s (bcnDecode s) := by
  rw [bcnDecode]
  split
  · exact clearBeacon_step s (errorStatus_end (clearBeacon s).status (by simp)) rfl
  · exact decodeMask_step _ s

/-- BCN_SCAN is a beacon step. -/
theorem bcnScan_step (cid : BitVec 16) (s : State) : BeaconStep s (bcnScan cid s) := by
  rw [bcnScan]
  split
  · exact clearBeacon_step s (errorStatus_end (clearBeacon s).status (by simp)) rfl
  · split
    · exact decodeMask_step _ s
    · exact clearBeacon_step s (dropStatus_end (clearBeacon s).status (by simp)) rfl

/-- What a CTR command can do: write a prefix of OUT_BUF of OUTLEN bytes and a result, or only an error. -/
def CtrStep (s t : State) : Prop :=
  ∃ bs st, t = (writeOut bs s).setResult st (BitVec.ofNat 13 bs.length) ∧ bs.length ≤ bufBytes ∧
    EndStatus s.status.keyed st ∧ st.bvalid = false ∧ (bs.length ≠ 0 → st.err = .ok)

/-- An error of a CTR command. -/
theorem ctrStep_error (s : State) {e : ErrCode} (h : e ≠ .keyUnavailable ∧ e ≠ .unsupported ∧ e ≠ .notFound) :
    CtrStep s (raiseError e s) :=
  ⟨[], errorStatus e s.status, rfl, Nat.zero_le _, errorStatus_end _ h, rfl, by simp⟩

/-- A success of a CTR command. -/
theorem ctrStep_complete (s : State) (bs : List Byte) (n : Nat) (t : Bool) (hn : bs.length = n) (h : n ≤ bufBytes) :
    CtrStep s (complete n t false (writeOut bs s)) :=
  ⟨bs, completeStatus t false s.status, by subst hn; rfl, hn ▸ h, completeStatus_end _ (by simp), rfl, fun _ => rfl⟩

/-- The ciphertext has OUTCAP bytes. -/
theorem ctrCipher_length (E : Bytes16 → Bytes16 → Bytes16) (K : Bytes16) (N : Vector Byte 8) (T pay : List Byte)
    (L : Nat) (hT : T.length = 4) (hL : L ≠ 0 ∧ L % 16 = 0 ∧ L ≤ 4096) (hp : pay.length ≤ L - 4) :
    (ctrCipher E K N T pay L).length = L := by
  rw [ctrCipher, xorBytes_length, ctrFrame_length _ _ _ hT hp (by omega), keystream_length]
  omega

/-- The plaintext is as long as the ciphertext when that is a whole number of blocks. -/
theorem ctrPlain_length (E : Bytes16 → Bytes16 → Bytes16) (K : Bytes16) (N : Vector Byte 8) (C : List Byte)
    (h : C.length % 16 = 0) : (ctrPlain E K N C).length = C.length := by
  rw [ctrPlain, xorBytes_length, keystream_length]
  omega

/-- CTR_ENCRYPT is a CTR step. -/
theorem ctrEncrypt_step (E : Bytes16 → Bytes16 → Bytes16) (s : State) : CtrStep s (ctrEncrypt E s) := by
  by_cases h : blockLength s.outcap.toNat = true ∧ s.inlen.toNat ≤ s.outcap.toNat - 4
  · have hL := (blockLength_iff _).mp h.1
    rw [ctrEncrypt_ok E h.1 h.2]
    exact ctrStep_complete _ _ _ _
      (ctrCipher_length _ _ _ _ _ _ (tagBytes_length s) hL (by simpa [readIn] using h.2)) hL.2.2
  · rw [ctrEncrypt_bad E (by simpa [Decidable.imp_iff_not_or] using h)]
    exact ctrStep_error _ (by simp)

/-- CTR_DECRYPT is a CTR step. -/
theorem ctrDecrypt_step (E : Bytes16 → Bytes16 → Bytes16) (s : State) : CtrStep s (ctrDecrypt E s) := by
  by_cases h : blockLength s.inlen.toNat = true ∧ s.outcap.toNat ≤ bufBytes
  · have hc := (blockLength_iff _).mp h.1
    by_cases ht : (ctrPlain E (keyBytes s) (seedBytes s) (readIn s s.inlen.toNat)).take 4 = tagBytes s
    · rw [ctrDecrypt_ok E h.1 h.2 ht]
      refine ctrStep_complete _ _ _ _ ?_ (by have := h.2; omega)
      rw [List.length_take, List.length_drop, ctrPlain_length _ _ _ _ (by simpa [readIn] using hc.2.1)]
      simp only [readIn, readBytes_length]
      omega
    · rw [ctrDecrypt_mismatch E h.1 h.2 ht]
      exact ctrStep_error _ (by simp)
  · rw [ctrDecrypt_bad E (by simpa [Decidable.imp_iff_not_or] using h)]
    exact ctrStep_error _ (by simp)

/-- What an RC5 block command can do: NotKeyed without a key, else a write of RC5_OUT and OK. -/
theorem rc5Block_step (f : Vector Half 26 → Half → Half → Half × Half) (s : State) :
    ∃ w st, rc5Block f s = (s.setRc5Out w).setResult st 0 ∧ EndStatus s.status.keyed st ∧ st.bvalid = false ∧
      (s.status.keyed = false → w = s.rc5Out) := by
  cases hk : s.status.keyed with
  | false =>
    rw [rc5Block_unkeyed f hk]
    exact ⟨s.rc5Out, _, rfl, hk ▸ errorStatus_end _ (by simp), rfl, fun _ => rfl⟩
  | true =>
    rw [rc5Block_keyed f hk]
    exact ⟨_, completeStatus false false s.status, rfl, hk ▸ completeStatus_end _ (by simp), rfl, by simp⟩

/-- Everything `exec` can do: a next state, of one of four shapes. -/
theorem exec_cases (i : Instr) (s : State) :
    ∃ t, exec i s = .next t ∧
      ((i = .rc5SetKey ∧ t = rc5SetKey s) ∨
        ((i = .rc5Decrypt ∧ t = rc5Block rc5Dec s) ∨ (i = .rc5Encrypt ∧ t = rc5Block rc5Enc s)) ∨
        ((i = .ctrEncrypt ∨ i = .ctrDecrypt) ∧ CtrStep s t) ∨
        ((i = .bcnVote ∨ i = .bcnDecode ∨ i = .bcnScan) ∧ BeaconStep s t)) := by
  cases i with
  | rc5SetKey => exact ⟨_, rfl, .inl ⟨rfl, rfl⟩⟩
  | rc5Decrypt => exact ⟨_, rfl, .inr (.inl (.inl ⟨rfl, rfl⟩))⟩
  | rc5Encrypt => exact ⟨_, rfl, .inr (.inl (.inr ⟨rfl, rfl⟩))⟩
  | ctrEncrypt => exact ⟨_, rfl, .inr (.inr (.inl ⟨.inl rfl, ctrEncrypt_step _ s⟩))⟩
  | ctrDecrypt => exact ⟨_, rfl, .inr (.inr (.inl ⟨.inr rfl, ctrDecrypt_step _ s⟩))⟩
  | bcnVote => exact ⟨_, rfl, .inr (.inr (.inr ⟨.inl rfl, bcnVote_step s⟩))⟩
  | bcnDecode => exact ⟨_, rfl, .inr (.inr (.inr ⟨.inr (.inl rfl), bcnDecode_step s⟩))⟩
  | bcnScan => exact ⟨_, rfl, .inr (.inr (.inr ⟨.inr (.inr rfl), bcnScan_step _ s⟩))⟩

end Sys2Proof.Machine
end

