-- ==== Sys2Proof/Laws/Decode.lean ====
section
/-! SUPPORT. Laws/Decode.lean: what the decoder can answer, said once. -/

namespace Sys2Proof

/-- Every row's mask is full, so a row selects exactly its own word. -/
theorem opcodeRow_selects {r : OpcodeRow} (hr : r ∈ opcodeTable) (w : Word) : r.selects w = (w == r.value) := by
  have hm : r.mask = BitVec.allOnes 32 := by revert r; decide
  rw [OpcodeRow.selects, hm, BitVec.and_allOnes]

/-- No two rows select one word. -/
theorem opcodeTable_disjoint : opcodeTable.Pairwise fun r r' => r.value ≠ r'.value := by decide

/-- A word is a row's command word and decodes to its command, or is none and is rejected. -/
theorem decode_cases (w : Word) :
    (∃ r ∈ opcodeTable, w = r.value ∧ decode w = .ok r.instr) ∨
      ((∀ r ∈ opcodeTable, w ≠ r.value) ∧ decode w = .error (rejectReason w)) := by
  by_cases h : ∃ r ∈ opcodeTable, w = r.value
  · obtain ⟨r, hr, rfl⟩ := h
    exact .inl ⟨r, hr, rfl, by revert r; decide⟩
  · simp only [not_exists, not_and] at h
    have hf : opcodeTable.find? (·.selects w) = none := by
      rw [List.find?_eq_none]
      intro r hr
      simpa [opcodeRow_selects hr] using h r hr
    exact .inr ⟨h, by simp [decode, hf]⟩

/-- The lanes of a word make the word. -/
theorem wordOfLanes_lanes (w : Word) :
    wordOfLanes (w.extractLsb' 0 8) (w.extractLsb' 8 8) (w.extractLsb' 16 8) (w.extractLsb' 24 8) = w := by
  simp only [wordOfLanes]
  ext i hi
  simp only [BitVec.getElem_append, BitVec.getElem_extractLsb']
  split
  · simp [BitVec.getLsbD_eq_getElem, hi]
  · split
    · rw [BitVec.getLsbD_eq_getElem (by omega)]; congr 1; omega
    · split <;> (rw [BitVec.getLsbD_eq_getElem (by omega)]; congr 1; omega)

/-- The lanes of the word of four lanes are those lanes. -/
theorem lanesOfWord_wordOfLanes (b0 b1 b2 b3 : Byte) : lanesOfWord (wordOfLanes b0 b1 b2 b3) = [b0, b1, b2, b3] := by
  simp only [lanesOfWord, wordOfLanes, List.cons.injEq, and_true]
  refine ⟨?_, ?_, ?_, ?_⟩ <;> ext i hi <;> simp <;> grind

end Sys2Proof
end

