-- ==== Sys2Proof/Laws/Frames.lean ====
section
/-! SUPPORT. Laws/Frames.lean: the CTR commands' byte strings in the statements' terms, byte by byte
(41_ctr_engine.md R140 to R149). -/

namespace Sys2Proof.Machine

open Sys2Proof

/-- A byte of the keystream of a state. -/
theorem keystream_state (s : State) (n k : Nat) (h : k < 16 * n) :
    (keystream Config.E (keyBytes s) (seedBytes s) n)[k]'(by simpa using h) = keystreamByte s k :=
  keystream_getElem ..

/-- A byte of the tag. -/
theorem tagBytes_getElem (s : State) (k : Nat) (h : k < 4) : (tagBytes s)[k] = lane s.tag k := by
  rcases k with _ | _ | _ | _ | k <;> first | rfl | omega

/-- A byte of the frame of a state. -/
theorem ctrFrame_state (s : State) (L p k : Nat) (hk : k < (ctrFrame (tagBytes s) (readIn s p) L).length) :
    (ctrFrame (tagBytes s) (readIn s p) L)[k] = frameByte s p k := by
  simp only [ctrFrame, frameByte, List.getElem_append, tagBytes_length]
  by_cases h4 : k < 4
  · have : k < (tagBytes s ++ readIn s p).length := by simp; omega
    simp only [this, h4, ↓reduceIte, ↓reduceDIte]
    exact tagBytes_getElem s k h4
  · by_cases hp : k < 4 + p
    · have : k < (tagBytes s ++ readIn s p).length := by simp [readIn]; omega
      simp only [this, h4, hp, ↓reduceIte, ↓reduceDIte]
      simp [readIn]
    · have : ¬k < (tagBytes s ++ readIn s p).length := by simp [readIn]; omega
      simp only [this, h4, hp, ↓reduceIte, ↓reduceDIte]
      simp [zeroBytes]

/-- A byte of the ciphertext of a state. -/
theorem ctrCipher_state (s : State) (L p k : Nat) (hL : BlockMultiple L) (hk : k < L)
    (h : k < (ctrCipher Config.E (keyBytes s) (seedBytes s) (tagBytes s) (readIn s p) L).length) :
    (ctrCipher Config.E (keyBytes s) (seedBytes s) (tagBytes s) (readIn s p) L)[k] =
      frameByte s p k ^^^ keystreamByte s k := by
  have := hL.2.1
  simp only [ctrCipher]
  rw [xorBytes_getElem, ctrFrame_state, keystream_state _ _ _ (by omega)]

/-- A byte of the decryption of a state. -/
theorem ctrPlain_state (s : State) (c k : Nat) (hc : c % 16 = 0) (hk : k < c)
    (h : k < (ctrPlain Config.E (keyBytes s) (seedBytes s) (readIn s c)).length) :
    (ctrPlain Config.E (keyBytes s) (seedBytes s) (readIn s c))[k] = plainByte s k := by
  simp only [ctrPlain]
  rw [xorBytes_getElem]
  simp only [readIn, readBytes_length, readBytes_getElem]
  rw [keystream_state _ _ _ (by omega)]
  rfl

/-- The tag check of CTR_DECRYPT in the statements' terms. -/
theorem tagMatches_iff (s : State) (c : Nat) (hc : BlockMultiple c) :
    (ctrPlain Config.E (keyBytes s) (seedBytes s) (readIn s c)).take 4 = tagBytes s ↔ TagMatches s := by
  obtain ⟨h0, h1, h2⟩ := hc
  have hl := ctrPlain_length Config.E (keyBytes s) (seedBytes s) (readIn s c) (by simpa [readIn] using h1)
  have hr : (readIn s c).length = c := by simp [readIn]
  constructor
  · intro h j hj
    have ht : ((ctrPlain Config.E (keyBytes s) (seedBytes s) (readIn s c)).take 4)[j]'(by simp; omega) =
        (tagBytes s)[j]'(by simpa using hj) := by simp only [h]
    rw [List.getElem_take] at ht
    exact (ctrPlain_state s c j h1 (by omega) (by omega)).symm.trans (ht.trans (tagBytes_getElem s j hj))
  · intro h
    apply List.ext_getElem
    · simp; omega
    · intro j hj hj'
      have h4 : j < 4 := by simpa using hj'
      rw [List.getElem_take, ctrPlain_state s c j h1 (by omega)]
      exact (h j h4).trans (tagBytes_getElem s j h4).symm

end Sys2Proof.Machine
end

