-- ==== Sys2Proof/Laws/Port.lean ====
section
/-! SUPPORT. Laws/Port.lean: everything one access at the port, and one step, can do, said once (10_state.md R51,
20_memory.md R60 to R67, 30_encoding.md R82). -/

namespace Sys2Proof.Machine

open Sys2Proof

/-- The register map and the registers' offsets agree. -/
theorem placeAt_regOffset (r : Reg) : placeAt (regOffset r) = .reg r := by cases r <;> decide

/-- A place is a register only at that register's offset. -/
theorem placeAt_eq_reg {off : Nat} {r : Reg} (h : placeAt off = .reg r) : off = regOffset r := by
  rw [placeAt] at h
  split at h
  · have key : ∀ e ∈ regMap, e.1 = regOffset e.2 := by decide
    have find : ∀ l : List (Nat × Reg), l.lookup off = some r → (off, r) ∈ l := by
      intro l
      induction l with
      | nil => simp
      | cons e l ih =>
        obtain ⟨o, r'⟩ := e
        rw [List.lookup_cons]
        split
        · rename_i ho
          have : off = o := by simpa using ho
          intro hr
          simp_all
        · intro hr
          exact List.mem_cons_of_mem _ (ih hr)
    split at h
    · rename_i r' hl
      cases h
      exact key _ (find _ hl)
    · cases h
  · split at h
    · cases h
    · split at h
      · cases h
      · split at h <;> cases h

/-- The offsets of IN_BUF. -/
theorem placeAt_inBuf {off : Nat} (h1 : inBase ≤ off) (h2 : off < outBase) : placeAt off = .inBuf (off - inBase) := by
  rw [placeAt, if_neg (by omega), if_pos h2]

/-- The offsets of OUT_BUF. -/
theorem placeAt_outBuf {off : Nat} (h1 : outBase ≤ off) (h2 : off < bufEnd) :
    placeAt off = .outBuf (off - outBase) := by
  have h3 : ¬off < inBase := by simp only [inBase, outBase] at *; omega
  rw [placeAt, if_neg h3, if_neg (by omega), if_pos h2]

/-- The reserved offsets after the buffers. -/
theorem placeAt_reserved {off : Nat} (h1 : bufEnd ≤ off) (h2 : off < 0x4000) : placeAt off = .reserved := by
  have h3 : ¬off < inBase := by simp only [inBase, bufEnd] at *; omega
  have h4 : ¬off < outBase := by simp only [outBase, bufEnd] at *; omega
  rw [placeAt, if_neg h3, if_neg h4, if_neg (by omega), if_pos h2]

/-- The reserved offsets below IN_BUF: those of no register. -/
theorem placeAt_reserved_low {off : Nat} (h1 : off < inBase) (h2 : ∀ r, off ≠ regOffset r) :
    placeAt off = .reserved := by
  cases h : placeAt off with
  | reg r => exact absurd (placeAt_eq_reg h) (h2 r)
  | reserved => rfl
  | inBuf k => rw [placeAt, if_pos h1] at h; split at h <;> cases h
  | outBuf k => rw [placeAt, if_pos h1] at h; split at h <;> cases h
  | outside => rw [placeAt, if_pos h1] at h; split at h <;> cases h

/-- A place is an IN_BUF byte only at its offset. -/
theorem placeAt_eq_inBuf {off k : Nat} (h : placeAt off = .inBuf k) : off = inBase + k ∧ off < outBase := by
  rw [placeAt] at h
  split at h
  · split at h <;> cases h
  · split at h
    · rw [Place.inBuf.injEq] at h
      exact ⟨by omega, by assumption⟩
    · split at h
      · cases h
      · split at h <;> cases h

/-- An offset of the window is somewhere. -/
theorem placeAt_inside {off : Nat} (h : off < 0x4000) : placeAt off ≠ .outside := by
  rw [placeAt]
  split
  · split <;> simp
  · split
    · simp
    · split
      · simp
      · simp

/-- The accesses that are let through. -/
theorem accessStop_none {off : Nat} (h1 : off < 0x4000) (h2 : off % 4 = 0) : accessStop .host 4 off = none := by
  have h3 : ¬windowBytes ≤ off := by simp only [windowBytes]; omega
  rw [accessStop, if_neg (by simp), if_neg h3, if_neg (by simp), if_neg (by omega)]

/-- An access that is let through is the host's, in the window, of four aligned bytes. -/
theorem accessStop_eq_none {agent : Agent} {size off : Nat} (h : accessStop agent size off = none) :
    agent = .host ∧ off < 0x4000 ∧ size = 4 ∧ off % 4 = 0 := by
  rw [accessStop] at h
  split at h
  · cases h
  split at h
  · cases h
  split at h
  · cases h
  split at h
  · cases h
  · simp only [windowBytes] at *
    exact ⟨by assumption |> not_not.mp, by omega, by assumption |> not_not.mp, by omega⟩

/-- A stopped access has no next state. -/
theorem accessStop_stops {agent : Agent} {size off : Nat} {o : Host.Outcome State Fault Refusal} {t : State}
    (h : accessStop agent size off = some o) : o ≠ .next t := by
  rw [accessStop] at h
  split at h
  · cases h; simp
  split at h
  · cases h; simp
  split at h
  · cases h; simp
  split at h
  · cases h; simp
  · cases h

/-- A store to a register other than CMD writes operand registers only. -/
theorem writeReg_keeps {r : Reg} (h : r ≠ .cmd) (v : Word) (s : State) :
    (writeReg r v s).cmd = s.cmd ∧ (writeReg r v s).status = s.status ∧ (writeReg r v s).outlen = s.outlen ∧
      (writeReg r v s).rc5Out = s.rc5Out ∧ (writeReg r v s).bcn = s.bcn ∧ (writeReg r v s).subkeys = s.subkeys ∧
      (writeReg r v s).mem = s.mem ∧ (writeReg r v s).pending = s.pending ∧
      (writeReg r v s).answers = s.answers ∧ (writeReg r v s).draws = s.draws := by
  cases r <;> first | exact absurd rfl h | exact ⟨rfl, rfl, rfl, rfl, rfl, rfl, rfl, rfl, rfl, rfl⟩

/-- What a store that issues no command can do. -/
def PlainStore (v : Word) (s t : State) : Prop :=
  t = s ∨ (∃ r, r ≠ .cmd ∧ t = writeReg r v s) ∨
    ∃ off, inBase ≤ off ∧ off + 4 ≤ outBase ∧ t = writeBufWord off v s

/-- A store at an aligned offset of the window other than CMD's. -/
theorem hostStore_plain {off : Nat} (v : Word) (s : State) (h0 : off ≠ 0) (h1 : off < 0x4000) (h2 : off % 4 = 0) :
    ∃ t, hostStore off v s = .next t ∧ PlainStore v s t := by
  cases hp : placeAt off with
  | reg r =>
    have ho := placeAt_eq_reg hp
    have hr : r ≠ .cmd := fun h => h0 (by rw [ho, h]; rfl)
    refine ⟨writeReg r v s, ?_, .inr (.inl ⟨r, hr, rfl⟩)⟩
    rw [hostStore, hp]
    cases r <;> first | exact absurd rfl hr | rfl
  | reserved => exact ⟨s, by rw [hostStore, hp], .inl rfl⟩
  | inBuf k =>
    obtain ⟨ho, hlt⟩ := placeAt_eq_inBuf hp
    refine ⟨writeBufWord (inBase + k) v s, by rw [hostStore, hp], .inr (.inr ⟨inBase + k, by omega, ?_, rfl⟩)⟩
    simp only [inBase, outBase] at *
    omega
  | outBuf k => exact ⟨s, by rw [hostStore, hp], .inl rfl⟩
  | outside => exact absurd hp (placeAt_inside h1)

/-- The store to CMD issues the command. -/
theorem hostStore_cmd (v : Word) (s : State) : hostStore 0 v s = issueCommand v s := rfl

/-- Issuing a word: the command it selects, or IllegalCommand. -/
theorem issueCommand_cases (w : Word) (s : State) :
    (∃ i, decode w = .ok i ∧ issueCommand w s = exec i (s.setCmd w)) ∨
      ((∃ e, decode w = .error e) ∧ issueCommand w s = .next (raiseError .illegalCommand (s.setCmd w))) := by
  rw [issueCommand]
  cases h : decode w with
  | ok i => exact .inl ⟨i, rfl, rfl⟩
  | error e => exact .inr ⟨⟨e, rfl⟩, rfl⟩

/-- A load at an offset of the window. -/
theorem hostLoad_window {off : Nat} (s : State) (h : off < 0x4000) :
    hostLoad off s = .next (s.addAnswer (windowWord s off)) := by
  rw [hostLoad, if_neg (placeAt_inside h)]

/-- Everything an access that has a next state can do. -/
theorem performAccess_cases {a : HostAccess} {s t : State} (h : performAccess a s = .next t) :
    (a = .reset ∧ t = resetBlock s) ∨
      (∃ w, a = .store .host 4 0 w ∧ issueCommand w s = .next t) ∨
      (∃ off v, a = .store .host 4 off v ∧ off ≠ 0 ∧ PlainStore v s t) ∨
      (∃ off, a = .load .host 4 off ∧ t = s.addAnswer (windowWord s off)) := by
  cases a with
  | reset => cases h; exact .inl ⟨rfl, rfl⟩
  | fetch agent off =>
    simp only [performAccess, fetchStop] at h
    split at h
    · cases h
    · split at h <;> cases h
  | store agent size off v =>
    simp only [performAccess] at h
    cases hs : accessStop agent size off with
    | some o => rw [hs] at h; exact absurd h (accessStop_stops hs)
    | none =>
      rw [hs] at h
      obtain ⟨rfl, h1, rfl, h2⟩ := accessStop_eq_none hs
      by_cases h0 : off = 0
      · subst h0; exact .inr (.inl ⟨v, rfl, h⟩)
      · obtain ⟨t', ht, hp⟩ := hostStore_plain v s h0 h1 h2
        rw [Option.getD_none, ht] at h
        cases h
        exact .inr (.inr (.inl ⟨off, v, rfl, h0, hp⟩))
  | load agent size off =>
    simp only [performAccess] at h
    cases hs : accessStop agent size off with
    | some o => rw [hs] at h; exact absurd h (accessStop_stops hs)
    | none =>
      rw [hs] at h
      obtain ⟨rfl, h1, rfl, h2⟩ := accessStop_eq_none hs
      rw [Option.getD_none, hostLoad_window s h1] at h
      cases h
      exact .inr (.inr (.inr ⟨off, rfl, rfl⟩))

/-- A step with an access waiting performs it. -/
theorem step_pending {s : State} {a : HostAccess} {rest : List HostAccess} (h : s.pending = a :: rest) :
    step s = performAccess a (s.setPending rest) := by
  rw [step, portStep, h]

/-- A step with nothing waiting leaves the state. -/
theorem step_idle {s : State} (h : s.pending = []) : step s = .next s := by
  rw [step, portStep, h]

/-- A step whose next access is a store to CMD issues the command. -/
theorem step_issue {s : State} {w : Word} {rest : List HostAccess} (h : s.pending = .store .host 4 0 w :: rest) :
    step s = issueCommand w (s.setPending rest) := by
  rw [step_pending h]
  rfl

/-- Everything a step can do. -/
theorem step_cases {s t : State} (h : step s = .next t) :
    (s.pending = [] ∧ t = s) ∨
      ∃ a rest, s.pending = a :: rest ∧ performAccess a (s.setPending rest) = .next t := by
  cases hp : s.pending with
  | nil => rw [step_idle hp] at h; cases h; exact .inl ⟨rfl, rfl⟩
  | cons a rest => rw [step_pending hp] at h; exact .inr ⟨a, rest, rfl, h⟩

end Sys2Proof.Machine
end

