-- ==== Sys2Proof/Laws/HostProgram.lean ====
section
/-! SUPPORT. Laws/HostProgram.lean: what a run of host accesses leaves (30_encoding.md R87, R88), and that an access
does not depend on the accesses waiting behind it. -/

namespace Sys2Proof.Machine

open Sys2Proof

/-- The host's run of `n + 1` steps is one step and `n` more. -/
theorem coreRun_next (M : Host.Core) (n : Nat) (x y : M.State) (h : M.step x = .next y) :
    M.run (n + 1) x = M.run n y := by
  show (match M.step x with | .next s => M.run n s | .fault r => .fault r | .refused r => .refused r) = _
  rw [h]

/-- A run of accesses goes on from where its first part ends. -/
theorem runAccesses_append (as bs : List HostAccess) (s t : State) (h : runAccesses as s = .next t) :
    runAccesses (as ++ bs) s = runAccesses bs t := by
  induction as generalizing s with
  | nil => cases h; rfl
  | cons a as ih =>
    rw [runAccesses] at h
    rw [List.cons_append, runAccesses]
    cases hp : performAccess a s with
    | next u => rw [hp] at h; exact ih u h
    | fault f => rw [hp] at h; cases h
    | refused f => rw [hp] at h; cases h

/-- The lanes of the word of four bytes. -/
theorem lane_wordOfBytes (b0 b1 b2 b3 : Byte) :
    lane (wordOfBytes b0 b1 b2 b3) 0 = b0 ∧ lane (wordOfBytes b0 b1 b2 b3) 1 = b1 ∧
      lane (wordOfBytes b0 b1 b2 b3) 2 = b2 ∧ lane (wordOfBytes b0 b1 b2 b3) 3 = b3 := by
  have h := lanesOfWord_wordOfLanes b0 b1 b2 b3
  simp only [lanesOfWord, List.cons.injEq] at h
  exact ⟨h.1, h.2.1, h.2.2.1, h.2.2.2.1⟩

/-- An aligned 32-bit store in the window. -/
theorem performAccess_store (off : Nat) (v : Word) (s : State) (h : off < 0x4000) (h4 : off % 4 = 0) :
    performAccess (.store .host 4 off v) s = hostStore off v s := by
  simp only [performAccess, accessStop_none h h4, Option.getD_none]

/-- What `wrbuf` leaves: the bytes in IN_BUF from `off`, everything else as it was. -/
theorem runAccesses_wrbuf : ∀ (bs : List Byte) (off : Nat) (s : State), bs.length % 4 = 0 → off % 4 = 0 →
    off + bs.length ≤ 4096 →
    ∃ m, runAccesses (wrbuf off bs) s = .next (s.setMem m) ∧ ∀ a, readByte (s.setMem m) a =
      if h : inBase + off ≤ a ∧ a < inBase + off + bs.length then bs[a - (inBase + off)]'(by omega)
      else readByte s a
  | [], off, s, _, _, _ => ⟨s.mem, rfl, fun a => by rw [dif_neg (by simp)]; rfl⟩
  | [_], off, s, h, _, _ => by simp at h
  | [_, _], off, s, h, _, _ => by simp at h
  | [_, _, _], off, s, h, _, _ => by simp at h
  | b0 :: b1 :: b2 :: b3 :: bs, off, s, h, h2, h3 => by
    simp only [List.length_cons] at h h3
    obtain ⟨m, e1, e2⟩ := runAccesses_wrbuf bs (off + 4)
      (writeBufWord (inBase + off) (wordOfBytes b0 b1 b2 b3) s) (by omega) (by omega) (by omega)
    refine ⟨m, ?_, ?_⟩
    · rw [wrbuf, runAccesses,
        performAccess_store _ _ _ (by simp only [inBase]; omega) (by simp only [inBase]; omega), hostStore,
        placeAt_inBuf (by omega) (by simp only [inBase, outBase]; omega)]
      simp only [Nat.add_sub_cancel_left]
      exact e1
    · intro a
      have he : readByte (s.setMem m) a = _ := e2 a
      obtain ⟨l0, l1, l2, l3⟩ := lane_wordOfBytes b0 b1 b2 b3
      rw [he, writeBufWord, readByte_memWrite, l0, l1, l2, l3]
      simp only [List.length_cons, List.length_nil]
      by_cases ha : inBase + (off + 4) ≤ a ∧ a < inBase + (off + 4) + bs.length
      · rw [dif_pos ha, dif_pos (by omega)]
        have : a - (inBase + off) = (a - (inBase + (off + 4))) + 4 := by omega
        simp [this]
      · rw [dif_neg ha]
        by_cases hb : inBase + off ≤ a ∧ a < inBase + off + (bs.length + 1 + 1 + 1 + 1)
        · rw [dif_pos hb, dif_pos (by omega)]
          obtain ⟨q, rfl, hq⟩ : ∃ q, a = inBase + off + q ∧ q < 4 := ⟨a - (inBase + off), by omega, by omega⟩
          simp only [Nat.add_sub_cancel_left]
          interval_cases q <;> rfl
        · rw [dif_neg hb, dif_neg (by omega)]

/-- The key that the four registers hold. -/
theorem keyBytes_of (s : State) (K : Bytes16) (h0 : s.key0 = wordOfBytes K[0] K[1] K[2] K[3])
    (h1 : s.key1 = wordOfBytes K[4] K[5] K[6] K[7]) (h2 : s.key2 = wordOfBytes K[8] K[9] K[10] K[11])
    (h3 : s.key3 = wordOfBytes K[12] K[13] K[14] K[15]) : keyBytes s = K := by
  apply Vector.ext
  intro k hk
  rw [keyBytes, Vector.getElem_ofFn]
  have a := lane_wordOfBytes K[0] K[1] K[2] K[3]
  have b := lane_wordOfBytes K[4] K[5] K[6] K[7]
  have c := lane_wordOfBytes K[8] K[9] K[10] K[11]
  have d := lane_wordOfBytes K[12] K[13] K[14] K[15]
  rw [← h0] at a
  rw [← h1] at b
  rw [← h2] at c
  rw [← h3] at d
  clear h0 h1 h2 h3
  interval_cases k <;> simp [keyReg, a, b, c, d]

/-- The seed that the two registers hold. -/
theorem seedBytes_of (s : State) (N : Vector Byte 8) (h0 : s.ivseed0 = wordOfBytes N[0] N[1] N[2] N[3])
    (h1 : s.ivseed1 = wordOfBytes N[4] N[5] N[6] N[7]) : seedBytes s = N := by
  apply Vector.ext
  intro k hk
  rw [seedBytes, Vector.getElem_ofFn]
  have a := lane_wordOfBytes N[0] N[1] N[2] N[3]
  have b := lane_wordOfBytes N[4] N[5] N[6] N[7]
  rw [← h0] at a
  rw [← h1] at b
  clear h0 h1
  interval_cases k <;> simp [seedReg, a, b]

/-- The tag that its register holds. -/
theorem tagBytes_of (s : State) (T : Vector Byte 4) (h0 : s.tag = wordOfBytes T[0] T[1] T[2] T[3]) :
    tagBytes s = T.toList := by
  obtain ⟨a0, a1, a2, a3⟩ := lane_wordOfBytes T[0] T[1] T[2] T[3]
  rw [tagBytes, h0, a0, a1, a2, a3]
  obtain ⟨⟨l⟩, hl⟩ := T
  match l, hl with
  | [x, y, z, w], _ => rfl

/-- Stages 2 to 8 do not depend on the accesses waiting. -/
theorem decodeMask_setPending (m : Bytes16) (s : State) (l : List HostAccess) :
    decodeMask m (clearBeacon (s.setPending l)) = (decodeMask m (clearBeacon s)).setPending l := by
  rw [decodeMask_eq, decodeMask_eq]
  generalize votedWord m = V
  change dispatchProto V ((s.setPending l).setBcn (stageFour V BeaconRegs.zero)) =
    (dispatchProto V (s.setBcn (stageFour V BeaconRegs.zero))).setPending l
  rw [dispatchProto_transfer V (s.setPending l) s _ rfl rfl rfl rfl rfl]
  conv_rhs => rw [dispatchProto_transfer V s s _ rfl rfl rfl rfl rfl]
  rfl

/-- A block command does not depend on the accesses waiting. -/
theorem rc5Block_setPending (f : Vector Half 26 → Half → Half → Half × Half) (s : State) (l : List HostAccess) :
    rc5Block f (s.setPending l) = (rc5Block f s).setPending l := by
  cases hk : s.status.keyed with
  | false => rw [rc5Block_unkeyed f hk, rc5Block_unkeyed f (show (s.setPending l).status.keyed = false from hk)]; rfl
  | true => rw [rc5Block_keyed f hk, rc5Block_keyed f (show (s.setPending l).status.keyed = true from hk)]; rfl

/-- No command depends on the accesses waiting. -/
theorem exec_setPending (i : Instr) (s : State) (l : List HostAccess) :
    ∃ t, exec i s = .next t ∧ exec i (s.setPending l) = .next (t.setPending l) := by
  have hri : ∀ k, readIn (s.setPending l) k = readIn s k := fun _ => rfl
  have hrm : readMask (s.setPending l) = readMask s := rfl
  have hk : keyBytes (s.setPending l) = keyBytes s := rfl
  have hn : seedBytes (s.setPending l) = seedBytes s := rfl
  have ht : tagBytes (s.setPending l) = tagBytes s := rfl
  cases i with
  | rc5SetKey =>
    refine ⟨_, rfl, ?_⟩
    change Host.Outcome.next (rc5SetKey (s.setPending l)) = _
    simp only [rc5SetKey_eq, hk]
    generalize rc5KeyExpand _ = T
    rfl
  | rc5Decrypt => exact ⟨_, rfl, congrArg _ (rc5Block_setPending rc5Dec s l)⟩
  | rc5Encrypt => exact ⟨_, rfl, congrArg _ (rc5Block_setPending rc5Enc s l)⟩
  | ctrEncrypt =>
    refine ⟨_, rfl, ?_⟩
    change Host.Outcome.next (ctrEncrypt Config.E (s.setPending l)) = _
    simp only [ctrEncrypt, setPending_outcap, setPending_inlen, hk, hn, ht, hri]
    split
    · rfl
    · split <;> rfl
  | ctrDecrypt =>
    refine ⟨_, rfl, ?_⟩
    change Host.Outcome.next (ctrDecrypt Config.E (s.setPending l)) = _
    simp only [ctrDecrypt, setPending_outcap, setPending_inlen, hk, hn, ht, hri]
    split
    · rfl
    · split
      · rfl
      · split <;> rfl
  | bcnVote =>
    refine ⟨_, rfl, ?_⟩
    change Host.Outcome.next (bcnVote (s.setPending l)) = _
    simp only [bcnVote, setPending_inlen, hrm]
    generalize votedWord _ = V
    split <;> rfl
  | bcnDecode =>
    refine ⟨_, rfl, ?_⟩
    change Host.Outcome.next (bcnDecode (s.setPending l)) = _
    simp only [bcnDecode, setPending_inlen, hrm, decodeMask_setPending]
    split <;> rfl
  | bcnScan =>
    refine ⟨_, rfl, ?_⟩
    change Host.Outcome.next (bcnScan Config.companyId (s.setPending l)) = _
    simp only [bcnScan, setPending_inlen, hri, decodeMask_setPending]
    split
    · rfl
    · split <;> rfl

/-- No access the spec gives a meaning depends on the accesses waiting behind it. -/
theorem performAccess_setPending (a : HostAccess) (s : State) (l : List HostAccess) (hw : a.wf = true) :
    ∃ t, performAccess a s = .next t ∧ performAccess a (s.setPending l) = .next (t.setPending l) := by
  cases a with
  | reset => exact ⟨_, rfl, rfl⟩
  | fetch ag off => simp [HostAccess.wf] at hw
  | load ag size off =>
    simp only [HostAccess.wf, Bool.and_eq_true, beq_iff_eq, decide_eq_true_eq] at hw
    obtain ⟨⟨⟨rfl, h1⟩, rfl⟩, h2⟩ := hw
    simp only [performAccess, accessStop_none h1 h2, Option.getD_none, hostLoad_window _ h1]
    refine ⟨_, rfl, ?_⟩
    have hv : windowWord (s.setPending l) off = windowWord s off := by
      rw [windowWord, windowWord]
      cases placeAt off with
      | reg r => cases r <;> rfl
      | reserved => rfl
      | inBuf k => rfl
      | outBuf k => rfl
      | outside => rfl
    rw [hv]
    rfl
  | store ag size off v =>
    simp only [HostAccess.wf, Bool.and_eq_true, beq_iff_eq, decide_eq_true_eq] at hw
    obtain ⟨⟨⟨rfl, h1⟩, rfl⟩, h2⟩ := hw
    rw [performAccess_store _ _ _ h1 h2, performAccess_store _ _ _ h1 h2, hostStore, hostStore]
    cases hp : placeAt off with
    | reg r =>
      cases r
      case cmd =>
        change ∃ t, issueCommand v s = .next t ∧ issueCommand v (s.setPending l) = .next (t.setPending l)
        rw [issueCommand, issueCommand]
        cases decode v with
        | ok i => exact exec_setPending i (s.setCmd v) l
        | error e => exact ⟨_, rfl, rfl⟩
      all_goals exact ⟨_, rfl, rfl⟩
    | reserved => exact ⟨_, rfl, rfl⟩
    | inBuf k => exact ⟨_, rfl, rfl⟩
    | outBuf k => exact ⟨_, rfl, rfl⟩
    | outside => exact absurd hp (placeAt_inside h1)

end Sys2Proof.Machine
end

