-- ==== Sys2Proof/Laws/HostServices.lean ====
section
/-! SUPPORT. Laws/HostServices.lean: what the CTR cores of the host and its command dispatcher can do
(45_host_services.md R242 to R245, R250). -/

namespace Sys2Proof.Machine

/-- A plaintext that fits IN_BUF is always put to the block, whose error is the reply. -/
theorem encryptCtr_fits {α : Type} (K : Bytes16) (N : Vector Byte 8) (T : Vector Byte 4) {pt : List Byte}
    (form : List Byte → α) (s : State) (h : pt.length ≤ bufBytes) :
    encryptCtr K N T pt form s = callBlock (encryptAccesses K N T pt) form s := by
  rw [encryptCtr, if_neg (by omega)]

/-- A ciphertext that fits IN_BUF, with a capacity that fits OUTCAP, is always put to the block. -/
theorem decryptCtr_fits {α : Type} (K : Bytes16) (N : Vector Byte 8) (T : Vector Byte 4) {C : List Byte} {cap : Nat}
    (form : List Byte → α) (s : State) (hC : C.length ≤ bufBytes) (hcap : cap ≤ lengthFieldMax) :
    decryptCtr K N T C cap form s = callBlock (decryptAccesses K N T C cap) form s := by
  rw [decryptCtr, if_neg (by omega)]

/-- The dispatcher forces a disconnect exactly for the two errors, while a connection is active. -/
theorem forcesDisconnect_iff (h : HostData) (e : ErrCode) :
    forcesDisconnect h e = true ↔ h.connected = true ∧ (e = .validationFailed ∨ e = .keyUnavailable) := by
  cases e <;> simp [forcesDisconnect, disconnectError]

/-- After a reply the host's data is as before, or the peer is disconnected, exactly where the reply forces it. -/
theorem afterReply_cases {α : Type} (h : HostData) (r : Reply α) :
    (∃ e, r = .error e ∧ forcesDisconnect h e = true ∧ afterReply h r = onDisconnect h) ∨
      ((∀ e, r = .error e → forcesDisconnect h e = false) ∧ afterReply h r = h) := by
  cases r with
  | ok a => exact .inr ⟨by simp, rfl⟩
  | error e =>
    cases hf : forcesDisconnect h e with
    | true => exact .inl ⟨e, rfl, hf, by rw [afterReply, if_pos hf]⟩
    | false => exact .inr ⟨fun e' he => by cases he; exact hf, by rw [afterReply, if_neg (by simp [hf])]⟩

/-- A dispatched operation is performed once, and its reply is the answer. -/
theorem dispatchOperation_next {α : Type} (op : HostData → State → ServiceOutcome α) (h : HostData) {s t : State}
    {r : Reply α} (ho : op h s = .next (t, r)) : dispatchOperation op h s = .next (t, afterReply h r, r) := by
  rw [dispatchOperation, ho]

end Sys2Proof.Machine
end

