-- ==== Sys2Proof/Laws/PerInstr.lean ====
section
/-! SUPPORT. Laws/PerInstr.lean: one statement per command, one lemma per constructor. -/

namespace Sys2Proof.Laws.RoundTrip

/-- The command word of `i` is legal, decodes to `i` as a word and as bytes, and is the word the opcode map gives it
(30_encoding.md R80, R81; 20_memory.md R63). -/
def Statement (i : Instr) : Prop :=
  legalWord (encode i) = true ∧ decode (encode i) = .ok i ∧ decodeBytes (encodeBytes i) = .ok (i, []) ∧
    decodeTableWord 32 (encode i).toNat = some i

theorem rc5SetKey : Statement .rc5SetKey := by unfold Statement; decide
theorem rc5Decrypt : Statement .rc5Decrypt := by unfold Statement; decide
theorem rc5Encrypt : Statement .rc5Encrypt := by unfold Statement; decide
theorem ctrEncrypt : Statement .ctrEncrypt := by unfold Statement; decide
theorem ctrDecrypt : Statement .ctrDecrypt := by unfold Statement; decide
theorem bcnVote : Statement .bcnVote := by unfold Statement; decide
theorem bcnDecode : Statement .bcnDecode := by unfold Statement; decide
theorem bcnScan : Statement .bcnScan := by unfold Statement; decide

end Sys2Proof.Laws.RoundTrip
end

