-- ==== Sys2Proof/Laws/Rc5.lean ====
section
/-! SUPPORT. Laws/Rc5.lean: the rotations and rounds of the cipher undo each other (40_lightweight_cipher.md R107). -/

namespace Sys2Proof.Machine

/-- A right rotation undoes a left rotation by the same amount. -/
@[simp] theorem rotr16_rotl16 (x s : Half) : rotr16 (rotl16 x s) s = x := by
  have h : s.toNat % 16 < 16 := Nat.mod_lt _ (by decide)
  simp only [rotr16, rotl16]
  generalize s.toNat % 16 = n at *
  ext i hi
  simp only [BitVec.getElem_rotateRight, BitVec.getElem_rotateLeft, Nat.mod_eq_of_lt h]
  split <;> split <;> first | omega | (congr 1; omega)

/-- A left rotation undoes a right rotation by the same amount. -/
@[simp] theorem rotl16_rotr16 (x s : Half) : rotl16 (rotr16 x s) s = x := by
  have h : s.toNat % 16 < 16 := Nat.mod_lt _ (by decide)
  simp only [rotr16, rotl16]
  generalize s.toNat % 16 = n at *
  ext i hi
  simp only [BitVec.getElem_rotateRight, BitVec.getElem_rotateLeft, Nat.mod_eq_of_lt h]
  split <;> split <;> first | omega | (congr 1; omega)

/-- A decryption round undoes the encryption round of the same number. -/
@[simp] theorem rc5DecRound_encRound (S : Vector Half 26) (i : Nat) (ab : Half × Half) :
    rc5DecRound S i (rc5EncRound S i ab) = ab := by
  obtain ⟨a, b⟩ := ab
  simp [rc5DecRound, rc5EncRound]

/-- An encryption round undoes the decryption round of the same number. -/
@[simp] theorem rc5EncRound_decRound (S : Vector Half 26) (i : Nat) (ab : Half × Half) :
    rc5EncRound S i (rc5DecRound S i ab) = ab := by
  obtain ⟨a, b⟩ := ab
  simp [rc5DecRound, rc5EncRound]

/-- The decryption rounds undo the encryption rounds. -/
theorem rc5DecRounds_encRounds (S : Vector Half 26) (n : Nat) (ab : Half × Half) :
    rc5DecRounds S n (rc5EncRounds S n ab) = ab := by
  induction n generalizing ab with
  | zero => rfl
  | succ n ih => rw [rc5EncRounds, rc5DecRounds, rc5DecRound_encRound, ih]

/-- The encryption rounds undo the decryption rounds. -/
theorem rc5EncRounds_decRounds (S : Vector Half 26) (n : Nat) (ab : Half × Half) :
    rc5EncRounds S n (rc5DecRounds S n ab) = ab := by
  induction n generalizing ab with
  | zero => rfl
  | succ n ih => rw [rc5EncRounds, rc5DecRounds, ih, rc5EncRound_decRound]

/-- One more turn of the mixing loop is one turn after the others. -/
theorem mixTurns_succ (n : Nat) (m : MixState) : mixTurns (n + 1) m = mixStep (mixTurns n m) := by
  induction n generalizing m with
  | zero => rfl
  | succ n ih => rw [mixTurns, ih, mixTurns]

end Sys2Proof.Machine
end

