-- ==== Sys2Proof/Tests/Slice0.lean ====
section
/-! SUPPORT. Tests/Slice0.lean: small tests. Expected values are the spec's own: 95_test_vectors.md by vector name, the
encodings of 30_encoding.md, the map of 10_state.md. The last part gives, for each statement with hypotheses, values that
meet them. -/

namespace Sys2Proof.Tests

open Sys2Proof Sys2Proof.Machine

/-! Helpers -/

/-- The state an outcome holds, if it is a next state. -/
def after : Host.Outcome State Fault Refusal → Option State
  | .next t => some t
  | .fault _ => none
  | .refused _ => none

/-- A state whose next access is `a`. -/
def offering (a : HostAccess) : State := State.reset.setPending [a]

/-- A state whose next access is the store of a command word. -/
def commanding (w : Word) : State := offering (.store .host 4 0 w)

/-- The reset state with bytes in IN_BUF from byte 0. -/
def withInput (bs : List Byte) : State := State.reset.setMem (memWrite [] inBase bs)

/-- KZ of 95_test_vectors.md. -/
def keyKZ : Bytes16 := Vector.replicate 16 0

/-- KS of 95_test_vectors.md. -/
def keyKS : Bytes16 := Vector.ofFn fun k : Fin 16 => BitVec.ofNat 8 k.val

/-- RC5-K2: the subkeys of KS. -/
def tableKS : Vector Half 26 :=
  #v[0x8A07, 0x6E98, 0x585A, 0x8833, 0xB0B2, 0xB452, 0x5931, 0xE7FC, 0xB9A2, 0x8C16, 0x0BFB, 0x2453, 0x7D1F,
    0xF2E6, 0x0387, 0x2033, 0xDF5B, 0xB1B5, 0x71F1, 0xCDA5, 0x6BCA, 0x8FCA, 0xF98B, 0x6273, 0x9E64, 0x2023]

/-- The common operands of 95_test_vectors.md section 2.3 with a mask in IN_BUF. -/
def beaconState (mask : List Byte) : State :=
  { withInput mask with
    subkeys := tableKS, status := okStatus true false false, bcfg := 7, brssi := 0xC4, inlen := 16 }

/-- The mask of BCN-V1. -/
def maskV1 : Bytes16 :=
  #v[0x01, 0xE6, 0xB3, 0x8D, 0x9C, 0x00, 0x79, 0xAC, 0xE3, 0x67, 0x00, 0x1E, 0x6B, 0x38, 0xD9, 0xC0]

/-- The mask of BCN-V2, BCN-V1 with one bit flipped. -/
def maskV2 : Bytes16 :=
  #v[0x01, 0xE6, 0xB3, 0x8D, 0x9C, 0x00, 0x79, 0xAD, 0xE3, 0x67, 0x00, 0x1E, 0x6B, 0x38, 0xD9, 0xC0]

/-- The mask of BCN-P1. -/
def maskP1 : Bytes16 :=
  #v[0x6A, 0xF3, 0x7B, 0xD5, 0x55, 0x5A, 0xBC, 0xDE, 0xF5, 0x55, 0x56, 0xAF, 0x37, 0xBD, 0x55, 0x54]

/-- The mask of BCN-P2. -/
def maskP2 : Bytes16 :=
  #v[0x80, 0x00, 0x00, 0x00, 0x48, 0xE0, 0x00, 0x00, 0x00, 0x12, 0x38, 0x00, 0x00, 0x00, 0x04, 0x8C]

/-- The mask of BCN-T4. -/
def maskT4 : Bytes16 :=
  #v[0x01, 0xCA, 0x26, 0x75, 0x1C, 0xC0, 0x72, 0x89, 0x9D, 0x47, 0x30, 0x1C, 0xA2, 0x67, 0x51, 0xCC]

/-- The keystream of 95_test_vectors.md section 2.2 as a block primitive. -/
def vectorE (_ block : Bytes16) : Bytes16 :=
  if block[15] = 0 then
    #v[0x0F, 0x86, 0x56, 0xAE, 0x5C, 0x28, 0x5B, 0xC6, 0xF0, 0x18, 0x16, 0x74, 0x5D, 0x92, 0x85, 0xCD]
  else
    #v[0xEB, 0x3C, 0x2C, 0x4C, 0x46, 0xE1, 0x26, 0xF0, 0x5D, 0x10, 0xDF, 0x61, 0x12, 0xCB, 0xB6, 0x7C]

/-- The operands of 95_test_vectors.md section 2.2. -/
def ctrState (bs : List Byte) (n cap : BitVec 13) : State :=
  { withInput bs with
    ivseed0 := 0xB1A3A2A1, ivseed1 := 0xB5B4B3B2, tag := 0xB4B3B2B1, inlen := n, outcap := cap }

/-- The ciphertext of CTR-E4. -/
def cipherE4 : List Byte :=
  [0xBE, 0x34, 0xE5, 0x1A, 0x5C, 0x29, 0x59, 0xC5, 0xF4, 0x1D, 0x10, 0x73, 0x55, 0x9B, 0x8F, 0xC6,
    0xE7, 0x3C, 0x2C, 0x4C, 0x46, 0xE1, 0x26, 0xF0, 0x5D, 0x10, 0xDF, 0x61, 0x12, 0xCB, 0xB6, 0x7C]

/-! WellFormed: a well-formed access and word, and one that fails each check (20_memory.md R60, R62, R73;
30_encoding.md R80 to R84; 60_exceptions.md R290) -/

theorem test_wf_accesses : (HostAccess.store .host 4 0x3FFC 0).wf = true ∧ (HostAccess.load .host 4 0).wf = true ∧
    HostAccess.reset.wf = true := by decide

theorem test_wf_refuses_agent : (HostAccess.store .other 4 0 0).wf = false ∧ (HostAccess.load .other 4 0).wf = false := by
  decide

theorem test_wf_refuses_outside : (HostAccess.store .host 4 0x4000 0).wf = false := by decide

theorem test_wf_refuses_size : (HostAccess.store .host 2 0 0).wf = false ∧ (HostAccess.load .host 1 0).wf = false := by
  decide

theorem test_wf_refuses_misaligned : (HostAccess.load .host 4 0x1002).wf = false := by decide

theorem test_wf_refuses_fetch : (HostAccess.fetch .host 0).wf = false := by decide

theorem test_wf_words : legalWord 0x00000001 = true ∧ legalWord 0x00000022 = true ∧ legalWord 0x00000110 = false ∧
    legalWord 0x00000004 = false ∧ legalWord 0x00000000 = false := by decide

/-! Decode: words written out from 30_encoding.md R80 and R81, and rejections by name (R83, R84) -/

theorem test_decode_cipher : decode 0b00000000000000000000000000000001 = .ok .rc5SetKey ∧
    decode 0b00000000000000000000000000000010 = .ok .rc5Decrypt ∧
    decode 0b00000000000000000000000000000011 = .ok .rc5Encrypt := by decide

theorem test_decode_ctr : decode 0b00000000000000000000000000010000 = .ok .ctrEncrypt ∧
    decode 0b00000000000000000000000000010001 = .ok .ctrDecrypt := by decide

theorem test_decode_beacon : decode 0b00000000000000000000000000100000 = .ok .bcnVote ∧
    decode 0b00000000000000000000000000100001 = .ok .bcnDecode ∧
    decode 0b00000000000000000000000000100010 = .ok .bcnScan := by decide

theorem test_decode_rejects : decode 0x00000110 = .error .reservedBits ∧ decode 0x0000000F = .error .reservedOpcode ∧
    decode 0x00000012 = .error .reservedOpcode ∧ decode 0x0000002F = .error .reservedOpcode ∧
    decode 0x00000030 = .error .unassignedOpcode ∧ decode 0x00000000 = .error .unassignedOpcode := by decide

theorem test_decode_lanes : decodeBytes [0x11, 0, 0, 0, 0xAA] = .ok (.ctrDecrypt, [0xAA]) ∧
    decodeBytes [0, 0, 0, 0x11] = .error .reservedBits ∧ decodeBytes [1, 0, 0] = .error .truncated := by decide

theorem test_opcode_rows_disjoint :
    opcodeTable.Pairwise fun r r' => r.mask &&& r'.mask &&& (r.value ^^^ r'.value) ≠ 0 := by decide

theorem test_table_words : [0x01, 0x02, 0x03, 0x10, 0x11, 0x20, 0x21, 0x22].map (decodeTableWord 32) =
    [some .rc5SetKey, some .rc5Decrypt, some .rc5Encrypt, some .ctrEncrypt, some .ctrDecrypt, some .bcnVote,
      some .bcnDecode, some .bcnScan] := by decide

/-! The step on each table word from reset. STATUS is the spec's: RC5-C1, RC5-C2, RC5-C3 (section 2.1); OUTCAP and INLEN
are 0, so InvalidLength (41 R144, R147; 42 R181, R182) and Drop(1) with KEYED = 0 (BCN-S7 has KEYED = 1) -/

/-- STATUS after one step that runs the word `w` first after reset. -/
def statusAfter (w : Nat) : Option Word := (after (step (State.reset.withFetchWord 32 w))).map (readReg · .status)

theorem test_step_from_reset : [0x01, 0x02, 0x03, 0x10, 0x11, 0x20, 0x21, 0x22, 0x110].map statusAfter =
    [some 0x00000010, some 0x00000007, some 0x00000007, some 0x00000001, some 0x00000001, some 0x00000001,
      some 0x00000001, some 0x00000104, some 0x00000006] := by decide +kernel

/-! LightweightCipher: RC5-K1, RC5-K2 and the block vectors of section 2.1 -/

theorem test_rc5_k1 : (rc5KeyExpand keyKZ).toList =
    [0x4B28, 0x1DF0, 0x8F58, 0xB8EF, 0x32CC, 0x9EC5, 0x8649, 0x64FD, 0x8544, 0x3B0F, 0x51F1, 0x226D, 0x5139,
      0xB427, 0xEFE1, 0x7C53, 0xB77B, 0x47BB, 0x2738, 0x36E2, 0xC787, 0x04ED, 0x7F86, 0x58E1, 0xF9CD, 0xDC50] := by
  decide +kernel

theorem test_rc5_k2 : rc5KeyExpand keyKS = tableKS := by decide +kernel

theorem test_rc5_enc : rc5Enc tableKS 0xCAFE 0x1234 = (0x9ACE, 0x3670) ∧
    rc5Enc tableKS 0x0001 0x0000 = (0xD571, 0x7DF7) ∧ rc5Enc tableKS 0xFFFF 0xFFFF = (0xCA7F, 0xCF79) := by
  decide +kernel

theorem test_rc5_dec : rc5Dec tableKS 0xCAFE 0x1234 = (0x44FF, 0xA389) ∧
    rc5Dec tableKS 0x0001 0x0000 = (0xFDC4, 0xEBD6) ∧ rc5Dec tableKS 0xFFFF 0xFFFF = (0x60A8, 0x4BBD) := by
  decide +kernel

theorem test_rc5_register : ((after (exec .rc5Decrypt { beaconState [] with rc5In := 0x36709ACE })).map
    fun t => (readReg t .rc5Out, readReg t .status)) = some (0x1234CAFE, 0x00000010) := by decide +kernel

/-! CounterModeEngine: vectors of section 2.2 over the keystream the section lists -/

theorem test_ctr_e1 :
    readBytes (ctrEncrypt vectorE (ctrState [] 0 16)) outBase 16 =
      [0xBE, 0x34, 0xE5, 0x1A, 0x5C, 0x28, 0x5B, 0xC6, 0xF0, 0x18, 0x16, 0x74, 0x5D, 0x92, 0x85, 0xCD] := by
  decide +kernel

theorem test_ctr_e4 :
    readBytes (ctrEncrypt vectorE (ctrState [0, 1, 2, 3, 4, 5, 6, 7, 8, 9, 10, 11, 12] 13 32)) outBase 32 = cipherE4 := by
  decide +kernel

theorem test_ctr_d1 : readBytes (ctrDecrypt vectorE (ctrState cipherE4 32 13)) outBase 13 =
      [0, 1, 2, 3, 4, 5, 6, 7, 8, 9, 10, 11, 12] ∧
    readReg (ctrDecrypt vectorE (ctrState cipherE4 32 13)) .status = 0x00000020 := by decide +kernel

theorem test_ctr_d6 : readReg (ctrDecrypt vectorE (ctrState (0xBF :: cipherE4.tail) 32 28)) .status = 0x00000003 := by
  decide +kernel

/-! BackgroundBeaconDecoder: vectors of section 2.3 -/

theorem test_bcn_v1_v2 : votedWord maskV1 = 0x0079ACE3670 ∧ votedWord maskV2 = 0x0079ACE3670 ∧
    windowB maskV2 = 0x0079ADE3670 := by decide +kernel

theorem test_bcn_v3_v4_v5 : vote 0x3FFFFFFFFFF 0 0x2AAAAAAAAAA = 0x2AAAAAAAAAA ∧ vote 1 2 4 = 0 ∧ vote 3 5 6 = 7 := by
  decide

/-- STATUS, BPROTO, BSPHERE, BENC, BDEC, BFIELDS and BRSSI_OUT after a command on a state. -/
def beaconAfter (i : Instr) (s : State) : Option (List Word) :=
  (after (exec i s)).map fun t => [Reg.status, .bproto, .bsphere, .benc, .bdec, .bfields, .brssiOut].map (readReg t)

/-- BCN-D1 and BCN-P1. -/
theorem test_bcn_accepts : beaconAfter .bcnDecode (beaconState maskV1.toList) =
      some [0x00000050, 0, 7, 0x36709ACE, 0x1234CAFE, 0x00046404, 0x000000C0] ∧
    ((after (exec .bcnDecode { beaconState maskP1.toList with brssi := 0xBA })).map fun t =>
      [Reg.status, .bvoteLo, .bvoteHi, .bproto, .btoken, .bresv, .brssiOut, .bsphere].map (readReg t)) =
      some [0x00000050, 0xCDEF5555, 0x000001AB, 1, 0x00ABCDEF, 0x00005555, 0x000000BA, 0] := by decide +kernel

/-- BCN-D2 and BCN-T4. -/
theorem test_bcn_drops : beaconAfter .bcnDecode { beaconState maskV1.toList with bcfg := 8 } =
      some [0x00000314, 0, 7, 0, 0, 0, 0] ∧
    beaconAfter .bcnDecode { beaconState maskT4.toList with now := 0x12345678 } =
      some [0x00000414, 0, 7, 0xD4732899, 0x123468AE, 0, 0] := by decide +kernel

theorem test_bcn_time : timeValid 0x68AC 0x12345678 = true ∧ timeValid 0x68AB 0x12345678 = true ∧
    timeValid 0x68AE 0x12345678 = false ∧ timeValid 0xFFFF 0 = true ∧ timeValid 0 0x007FFF80 = true := by decide

theorem test_bcn_rssi : [adjustedRssi 0xC4 8, adjustedRssi 0xC4 0, adjustedRssi 0xC4 15, adjustedRssi 0x88 0,
      adjustedRssi 0xFB 15, adjustedRssi 0x80 0, adjustedRssi 0x7F 15, adjustedRssi 0 8, adjustedRssi 0x82 7] =
    [0xC4, 0xB4, 0xD2, 0x81, 0xFF, 0x81, 0xFF, 0xFF, 0x81] := by decide

theorem test_bcn_unpack : readReg (recordFields 0x8421 State.reset) .bfields = 0x00014021 ∧
    readReg (recordFields 0xFFFF State.reset) .bfields = 0x0007F73F := by decide

/-- BCN-S1, S3, S5, S6, S8 and S9 through the locator with COMPANY_ID 0x004C. -/
theorem test_bcn_scan : [[0x02, 0x01, 0x06, 0x14, 0xFF, 0x4C, 0x00, 0x01] ++ maskV1.toList,
      [0x02, 0x01, 0x06, 0x14, 0xFF, 0x4C, 0x00, 0x02] ++ maskV1.toList,
      [0x02, 0x01, 0x06, 0x14, 0xFF, 0x4C, 0x00, 0x01] ++ maskV1.toList.take 15,
      [0x00, 0x02, 0x01, 0x06, 0x14, 0xFF, 0x4C, 0x00, 0x01] ++ maskV1.toList,
      [0x04, 0xFF, 0x59, 0x00, 0x01, 0x14, 0xFF, 0x4C, 0x00, 0x01] ++ maskV1.toList,
      [0x03, 0x03, 0xAA, 0xFE, 0x14, 0xFF, 0x4C, 0x00, 0x01] ++ maskV1.toList].map (locate 0x004C) =
    [some maskV1, none, none, none, none, some maskV1] := by decide +kernel

theorem test_bcn_scan_status : readReg (bcnScan 0x004C { beaconState ([0x02, 0x01, 0x06, 0x14, 0xFF, 0x4C, 0x00, 0x01]
    ++ maskV1.toList) with inlen := 24 }) .status = 0x00000050 := by decide +kernel

/-! The port (10_state.md R51, 20_memory.md R63) and the host services (section 2.5) -/

theorem test_port_store : ((after (step (offering (.store .host 4 0x018 0xABCDEF07)))).map (readReg · .bcfg)) = some 7 := by
  decide +kernel

theorem test_port_lanes : ((after (step (offering (.store .host 4 0x1000 0x1AE534BE)))).map (readBytes · inBase 4)) =
    some [0xBE, 0x34, 0xE5, 0x1A] := by decide +kernel

/-- A host in setup mode with a valid setup key and enforcement on. -/
def hostSetup : HostData :=
  { sessionNonce := #v[0xB1, 0xB2, 0xB3, 0xB4, 0xB5], setupKey := keyKZ, setupKeyValid := true, setupMode := true,
    enforcement := true, sessionMode := true, connected := true }

theorem test_host_access :
    [allowAccess hostSetup .member .admin, allowAccess hostSetup .member .member, allowAccess hostSetup .member .guest,
      allowAccess hostSetup .member .setup, allowAccess hostSetup .setup .setup, allowAccess hostSetup .setup .admin,
      allowAccess hostSetup .guest .notSet, allowAccess hostSetup .notSet .admin,
      allowAccess { hostSetup with setupKeyValid := false } .setup .setup,
      allowAccess { hostSetup with enforcement := false } .admin .disabled] =
    [true, true, false, false, true, false, false, false, false, true] := by decide

/-- N and T of HOST-P1. -/
theorem test_host_seed : (ivSeed hostSetup #v[0xA1, 0xA2, 0xA3]).toList =
      [0xA1, 0xA2, 0xA3, 0xB1, 0xB2, 0xB3, 0xB4, 0xB5] ∧
    (validationTag hostSetup).toList = [0xB1, 0xB2, 0xB3, 0xB4] := by decide

/-- A capacity of 4097 reaches the block, which answers InvalidLength (CTR-D5). -/
theorem test_host_capacity :
    (match decryptCtr keyKS (Vector.replicate 8 0) (Vector.replicate 4 0) (zeroBytes 16) 4097 id State.reset with
      | .next (t, r) => some (readReg t .outcap, readReg t .status, r.toOption)
      | _ => none) = some (4097, 0x00000001, none) := by decide +kernel

/-- The command dispatcher: ValidationFailed disconnects an active connection, and nothing else does (45 R250). -/
theorem test_host_dispatch :
    afterReply hostSetup (.error .validationFailed : Reply Unit) =
      { hostSetup with setupKeyValid := false, connected := false } ∧
    afterReply hostSetup (.error .invalidLength : Reply Unit) = hostSetup ∧
    afterReply { hostSetup with connected := false } (.error .keyUnavailable : Reply Unit) =
      { hostSetup with connected := false } := by decide +kernel

theorem test_host_lengths : [encryptionBufferLength packetOverhead 0, encryptionBufferLength packetOverhead 13,
      encryptionBufferLength meshOverhead 28, decryptionBufferLength packetOverhead 36,
      decryptionBufferLength meshOverhead 8, decryptionBufferLength meshOverhead 40] = [20, 36, 40, 32, 0, 32] := by
  decide

/-! Witnesses: values that meet the hypotheses of each statement that has some, clause by clause -/

theorem witness_IllegalWordRaisesIllegalCommand :
    Offers (commanding 0x00000110) 0x00000110 [] ∧ (0x00000110 : Word).extractLsb' 8 24 ≠ 0 ∧
      Offers (commanding 0xFFFFFFFF) 0xFFFFFFFF [] ∧ (0xFFFFFFFF : Word).extractLsb' 8 24 ≠ 0 ∧
      Offers (commanding 0) 0 [] ∧ Offers (commanding 0x23) 0x23 [] ∧
      (0 : Word).extractLsb' 0 8 ∉ ([0x01, 0x02, 0x03, 0x10, 0x11, 0x20, 0x21, 0x22] : List Byte) ∧
      (0x23 : Word).extractLsb' 0 8 ∉ ([0x01, 0x02, 0x03, 0x10, 0x11, 0x20, 0x21, 0x22] : List Byte) :=
  ⟨rfl, by decide, rfl, by decide, rfl, rfl, by decide, by decide⟩

theorem witness_StepRunsTheDecodedCommand :
    Offers (commanding 0x01) 0x01 [] ∧ decode 0x01 = .ok .rc5SetKey ∧ Offers (commanding 0x22) 0x22 [] ∧
      decode 0x22 = .ok .bcnScan := ⟨rfl, by decide, rfl, by decide⟩

theorem witness_ResetEventClearsTheBlock : (offering .reset).pending = .reset :: [] := rfl

theorem reset_inv : State.reset.Inv := by
  refine ⟨rfl, ⟨by decide, by decide, by decide, by decide, by decide⟩, ⟨by decide, by decide⟩,
    fun _ => ⟨rfl, rfl, rfl, rfl, rfl, rfl⟩, .inl rfl, fun _ => .inl rfl⟩

theorem witness_StepKeepsTheInvariant : (commanding 0x01).Inv ∧ ∃ t, step (commanding 0x01) = .next t :=
  ⟨reset_inv, _, rfl⟩

theorem witness_WellFormedAccessCompletes :
    (commanding 0x22).pending = .store .host 4 0 0x22 :: [] ∧ (HostAccess.store .host 4 0 0x22).wf = true ∧
      (offering (.load .host 4 0x3FFC)).pending = .load .host 4 0x3FFC :: [] ∧
      (HostAccess.load .host 4 0x3FFC).wf = true ∧ (offering .reset).pending = .reset :: [] ∧
      HostAccess.reset.wf = true := ⟨rfl, by decide, rfl, by decide, rfl, by decide⟩

theorem witness_SubwordAndMisalignedAccessesRefused :
    (offering (.store .host 2 0x3FFF 0)).pending = .store .host 2 0x3FFF 0 :: [] ∧
      (offering (.load .host 4 0x3FFE)).pending = .load .host 4 0x3FFE :: [] ∧ 0x3FFF < 0x4000 ∧ 0x3FFE % 4 ≠ 0 :=
  ⟨rfl, rfl, by decide, by decide⟩

theorem witness_ForeignAccessesStopByName :
    (offering (.store .other 4 0 0)).pending = .store .other 4 0 0 :: [] ∧
      (offering (.load .host 4 0x4000)).pending = .load .host 4 0x4000 :: [] ∧ 0x4000 ≤ 0x4000 ∧
      (offering (.fetch .host 0x3FFF)).pending = .fetch .host 0x3FFF :: [] ∧ 0x3FFF < 0x4000 :=
  ⟨rfl, rfl, by decide, rfl, by decide⟩

/-- Every offset the clauses of StoreKeepsDefinedBits name. -/
theorem witness_StoreKeepsDefinedBits : ∀ off ∈ [0x00C, 0x010, 0x014, 0x018, 0x01C, 0x020, 0x024, 0x028, 0x02C,
    0x030, 0x034, 0x038, 0x040], (offering (.store .host 4 off 0xFFFFFFFF)).pending = .store .host 4 off 0xFFFFFFFF :: [] :=
  fun _ _ => rfl

/-- One offset at each end of each clause of StoreToReadOnlyPlaceIgnored. -/
theorem witness_StoreToReadOnlyPlaceIgnored :
    (∀ off, (offering (.store .host 4 off 1)).pending = .store .host 4 off 1 :: []) ∧
      (∀ off ∈ [0x004, 0x06C], off % 4 = 0 ∧ ∃ r ∈ readOnlyRegs, off = regOffset r) ∧
      (∀ off ∈ [0x070, 0xFFC], off % 4 = 0 ∧ 0x070 ≤ off ∧ off < 0x1000) ∧
      (∀ off ∈ [0x2000, 0x3FFC], off % 4 = 0 ∧ 0x2000 ≤ off ∧ off < 0x4000) ∧ 0x03C % 4 = 0 :=
  ⟨fun _ => rfl, by decide, by decide, by decide, by decide⟩

theorem witness_StoreToInBufPlacesLanes : ∀ off ∈ [0x1000, 0x1FFC],
    (offering (.store .host 4 off 0x04030201)).pending = .store .host 4 off 0x04030201 :: [] ∧ 0x1000 ≤ off ∧
      off < 0x2000 ∧ off % 4 = 0 := by
  intro off h
  exact ⟨rfl, by revert off; decide⟩

theorem witness_BufferWordReadsBack : ∀ off ∈ [0x1000, 0x1FFC],
    (State.reset.setPending [.store .host 4 off 7, .load .host 4 off]).pending =
      .store .host 4 off 7 :: .load .host 4 off :: [] ∧ 0x1000 ≤ off ∧ off < 0x2000 ∧ off % 4 = 0 := by
  intro off h
  exact ⟨rfl, by revert off; decide⟩

/-- One offset at each end of each clause of LoadReturnsTheCurrentValue. -/
theorem witness_LoadReturnsTheCurrentValue : ∀ off ∈ [0x000, 0x06C, 0x03C, 0x070, 0xFFC, 0x1000, 0x2FFC, 0x3000, 0x3FFC],
    (offering (.load .host 4 off)).pending = .load .host 4 off :: [] ∧ off < 0x4000 ∧ off % 4 = 0 := by
  intro off h
  exact ⟨rfl, by revert off; decide⟩

theorem witness_StepsPerformWaitingAccessesInOrder :
    (State.reset.setPending [.store .host 4 0x00C 5, .reset]).pending = [.store .host 4 0x00C 5, .reset] ∧
      ∀ a ∈ [HostAccess.store .host 4 0x00C 5, .reset], a.wf = true := ⟨rfl, by decide⟩

/-- A command with OUTLEN other than 0 after it, and one with OUTLEN 0. -/
theorem witness_CommandsKeepOperandsAndInBuf :
    (∃ t, exec .ctrEncrypt { State.reset with outcap := 16 } = .next t ∧ t.outlen ≠ 0) ∧
      ∃ t, exec .bcnScan State.reset = .next t := ⟨⟨_, rfl, by decide +kernel⟩, _, rfl⟩

theorem witness_OutlenBoundsWhatIsWritten :
    ∃ t, exec .ctrEncrypt { State.reset with outcap := 4096, inlen := 4092 } = .next t ∧ t.outlen.toNat = 4096 := by
  refine ⟨_, rfl, ?_⟩
  rw [ctrEncrypt_ok Config.E (by decide) (by decide)]
  decide

theorem witness_FlagsAreNotInputs :
    ({ State.reset.status with err := .notFound, drop := .time } : Status).keyed = State.reset.status.keyed := rfl

/-- The three clauses: reset, RC5_SETKEY, any other access. -/
theorem witness_KeyedChangesOnlyBySetkeyAndReset :
    (∃ t, step (offering .reset) = .next t ∧ (offering .reset).pending = .reset :: []) ∧
      (∃ t, step (commanding 1) = .next t ∧ Offers (commanding 1) 0x00000001 []) ∧
      ∃ t, step (commanding 3) = .next t ∧ (∀ rest, (commanding 3).pending ≠ .reset :: rest) ∧
        ∀ rest, ¬Offers (commanding 3) 0x00000001 rest := by
  refine ⟨⟨_, rfl, rfl⟩, ⟨_, rfl, rfl⟩, _, rfl, ?_, ?_⟩ <;> intro rest h <;>
    simp [commanding, offering, Offers] at h

theorem witness_SubkeyTableIsASnapshot :
    (∃ t, step (commanding 1) = .next t ∧ Offers (commanding 1) 0x00000001 []) ∧
      ∃ t, step (commanding 2) = .next t ∧ (∀ rest, (commanding 2).pending ≠ .reset :: rest) ∧
        ∀ rest, ¬Offers (commanding 2) 0x00000001 rest := by
  refine ⟨⟨_, rfl, rfl⟩, _, rfl, ?_, ?_⟩ <;> intro rest h <;> simp [commanding, offering, Offers] at h

/-- A step from KEYED = 0 that leaves KEYED = 1, and one that does not. -/
theorem witness_UnkeyedTableIsInvisible :
    (commanding 1).status.keyed = false ∧ (∃ t, step (commanding 1) = .next t ∧ t.status.keyed = true) ∧
      ∃ t, step (commanding 2) = .next t ∧ t.status.keyed = false := ⟨rfl, ⟨_, rfl, rfl⟩, _, rfl, rfl⟩

theorem witness_RotationsUseTheLowFourBits :
    0 < 16 ∧ 15 < 16 ∧ (0x0013 : Half).extractLsb' 0 4 = (0xFFF3 : Half).extractLsb' 0 4 ∧ (0xFFF0 : Half).extractLsb' 0 4 = 0 := by decide

theorem witness_KeyScheduleMixesSeventyEightTurns :
    (1 : Fin 26) ≠ (mixStart keyKZ).i ∧ (1 : Fin 8) ≠ (mixStart keyKZ).j := by decide +kernel

theorem witness_Rc5BlockCommandsTransformRc5In : (beaconState []).status.keyed = true := rfl

theorem witness_Rc5BlockCommandsNeedAKey : State.reset.status.keyed = false := rfl

theorem witness_CounterBlockLayout : 0 < 256 ∧ 255 < 256 := by decide

theorem witness_KeystreamIsBlockAfterBlock : 255 < 256 ∧ 15 < 16 ∧ ([1, 2] : List Byte)[1]? = some 2 := by decide

/-- The least and the greatest ciphertext, with no payload byte to spare. -/
theorem witness_CtrEncryptWritesTheCiphertext :
    (BlockMultiple 16 ∧ ({ State.reset with outcap := 16, inlen := 12 } : State).outcap.toNat = 16 ∧
      ({ State.reset with outcap := 16, inlen := 12 } : State).inlen.toNat = 12 ∧ 12 ≤ 16 - 4) ∧
    (BlockMultiple 4096 ∧ ({ State.reset with outcap := 4096, inlen := 4092 } : State).outcap.toNat = 4096 ∧
      ({ State.reset with outcap := 4096, inlen := 4092 } : State).inlen.toNat = 4092 ∧ 4092 ≤ 4096 - 4) := by
  unfold BlockMultiple
  decide

/-- CTR-E6, E7, E8 and E4x. -/
theorem witness_CtrEncryptRejectsLengths :
    State.reset.outcap.toNat = 0 ∧ ({ State.reset with outcap := 20 } : State).outcap.toNat % 16 ≠ 0 ∧
      4096 < ({ State.reset with outcap := 4112 } : State).outcap.toNat ∧
      ({ State.reset with outcap := 16, inlen := 13 } : State).outcap.toNat <
        ({ State.reset with outcap := 16, inlen := 13 } : State).inlen.toNat + 4 := by decide

/-- The first keystream block of the reset key and seed. -/
def firstBlock : Bytes16 := Config.E (keyBytes State.reset) (ivBlock (seedBytes State.reset) 0)

/-- A state whose IN_BUF holds the ciphertext of sixteen zero bytes, so that a zero tag matches. -/
def zeroCipher : State := { withInput firstBlock.toList with inlen := 16, outcap := 5 }

theorem readByte_zeroCipher (k : Nat) (h : k < 16) : readByte zeroCipher (inBase + k) = firstBlock[k] := by
  have e := readByte_memWrite State.reset inBase firstBlock.toList (inBase + k)
  rw [dif_pos (by simp [h])] at e
  exact Eq.trans e (by simp)

theorem plainByte_zeroCipher (k : Nat) (h : k < 16) : plainByte zeroCipher k = 0 := by
  have hk : keystreamByte zeroCipher k = firstBlock[k] := by
    have : keystreamByte zeroCipher k = firstBlock.toList.getD (k % 16) 0 := by
      rw [show k % 16 = k from Nat.mod_eq_of_lt h, keystreamByte, show k / 16 = 0 by omega,
        show k % 16 = k from Nat.mod_eq_of_lt h]
      rfl
    rw [this]
    simp [List.getD_eq_getElem?_getD, Nat.mod_eq_of_lt h, h]
  rw [plainByte, readByte_zeroCipher k h, hk, BitVec.xor_self]
  rfl

theorem tagMatches_zeroCipher : TagMatches zeroCipher := by
  intro j hj
  rw [plainByte_zeroCipher j (by omega)]
  interval_cases j <;> decide

theorem witness_CtrDecryptWritesThePlaintext :
    zeroCipher.inlen.toNat = 16 ∧ zeroCipher.outcap.toNat = 5 ∧ BlockMultiple 16 ∧ 5 ≤ 4096 ∧ TagMatches zeroCipher ∧
      5 = min 5 (16 - 4) :=
  ⟨rfl, rfl, ⟨by decide, by decide, by decide⟩, by decide, tagMatches_zeroCipher, by decide⟩

/-- A state whose tag does not match. -/
def wrongTag : State := { zeroCipher with tag := 1 }

theorem not_tagMatches_wrongTag : ¬TagMatches wrongTag := by
  intro h
  have h0 : plainByte zeroCipher 0 = lane 1 0 := h 0 (by decide)
  rw [plainByte_zeroCipher 0 (by decide)] at h0
  revert h0
  decide

/-- The clauses: CTR-D10, D11, D12, D5, and a tag that does not match. -/
theorem witness_CtrDecryptRejects :
    ¬BlockMultiple State.reset.inlen.toNat ∧ ¬BlockMultiple ({ State.reset with inlen := 17 } : State).inlen.toNat ∧
      ¬BlockMultiple ({ State.reset with inlen := 4112 } : State).inlen.toNat ∧
      4096 < ({ State.reset with inlen := 32, outcap := 4097 } : State).outcap.toNat ∧
      BlockMultiple wrongTag.inlen.toNat ∧ wrongTag.outcap.toNat ≤ 4096 ∧ ¬TagMatches wrongTag := by
  refine ⟨fun h => h.1 rfl, fun h => absurd h.2.1 (by decide), fun h => absurd h.2.2 (by decide), by decide,
    ⟨by decide, by decide, by decide⟩, by decide, not_tagMatches_wrongTag⟩

/-- An encryption of five payload bytes. -/
def encStart : State := { State.reset with outcap := 16, inlen := 5 }

/-- What it leaves. -/
def encEnd : State := ctrEncrypt Config.E encStart

/-- Its ciphertext as the input of a decryption into twelve bytes. -/
def decStart : State := { withInput (readBytes encEnd outBase 16) with inlen := 16, outcap := 12 }

theorem readByte_decStart (k : Nat) (h : k < 16) : readByte decStart (0x1000 + k) = readByte encEnd (0x2000 + k) := by
  have e := readByte_memWrite State.reset inBase (readBytes encEnd outBase 16) (inBase + k)
  rw [dif_pos (by simp [h])] at e
  exact Eq.trans e (by simp)

theorem witness_CtrRoundTrips :
    encStart.outcap.toNat = 16 ∧ encStart.inlen.toNat = 5 ∧ BlockMultiple 16 ∧ 5 ≤ 16 - 4 ∧
      exec .ctrEncrypt encStart = .next encEnd ∧ keyBytes decStart = keyBytes encStart ∧
      seedBytes decStart = seedBytes encStart ∧ decStart.tag = encStart.tag ∧ decStart.inlen.toNat = 16 ∧
      decStart.outcap.toNat = 12 ∧ 5 ≤ 12 ∧ 12 ≤ 4096 ∧
      ∀ k, k < 16 → readByte decStart (0x1000 + k) = readByte encEnd (0x2000 + k) :=
  ⟨rfl, rfl, ⟨by decide, by decide, by decide⟩, by decide, rfl, rfl, rfl, rfl, rfl, rfl, by decide, by decide,
    readByte_decStart⟩

/-- The accepted ciphertext with its first byte changed. -/
def tampered : State := zeroCipher.setMem (memWrite zeroCipher.mem inBase [firstBlock[0] ^^^ 1])

theorem witness_TagTamperingIsRejected :
    (∃ t, exec .ctrDecrypt zeroCipher = .next t ∧ t.status.err = .ok) ∧ keyBytes tampered = keyBytes zeroCipher ∧
      seedBytes tampered = seedBytes zeroCipher ∧ tampered.tag = zeroCipher.tag ∧
      tampered.inlen = zeroCipher.inlen ∧ tampered.outcap = zeroCipher.outcap ∧
      (∃ j, j < 4 ∧ readByte tampered (0x1000 + j) ≠ readByte zeroCipher (0x1000 + j)) ∧
      (∀ k, 4 ≤ k → k < zeroCipher.inlen.toNat →
        readByte tampered (0x1000 + k) = readByte zeroCipher (0x1000 + k)) ∧ 4 < zeroCipher.inlen.toNat := by
  refine ⟨⟨_, rfl, ?_⟩, rfl, rfl, rfl, rfl, rfl, ⟨0, by decide, ?_⟩, ?_, by decide⟩
  · rw [ctrDecrypt_ok Config.E (by decide) (by decide)
      ((tagMatches_iff zeroCipher 16 ⟨by decide, by decide, by decide⟩).mpr tagMatches_zeroCipher)]
    rfl
  · rw [tampered, readByte_memWrite, dif_pos (by decide)]
    have h := readByte_zeroCipher 0 (by decide)
    simp only [Nat.add_zero] at h ⊢
    rw [h]
    have ne : ∀ x : Byte, x ^^^ 1 ≠ x := by decide
    exact ne _
  · intro k hk _
    rw [tampered, readByte_memWrite, dif_neg (by simp; omega)]

theorem witness_KeystreamReuseCancels :
    encStart.outcap.toNat = 16 ∧ ({ encStart with inlen := 12 } : State).outcap.toNat = 16 ∧
      encStart.inlen.toNat = 5 ∧ ({ encStart with inlen := 12 } : State).inlen.toNat = 12 ∧ BlockMultiple 16 ∧
      5 ≤ 16 - 4 ∧ 12 ≤ 16 - 4 ∧ keyBytes { encStart with inlen := 12 } = keyBytes encStart ∧
      seedBytes { encStart with inlen := 12 } = seedBytes encStart ∧ (∃ t, exec .ctrEncrypt encStart = .next t) ∧
      ∃ t, exec .ctrEncrypt { encStart with inlen := 12 } = .next t :=
  ⟨rfl, rfl, rfl, rfl, ⟨by decide, by decide, by decide⟩, by decide, by decide, rfl, rfl, ⟨_, rfl⟩, _, rfl⟩

theorem witness_VoteIsTheMajorityOfTheWindows : 0 < 42 ∧ 41 < 42 := by decide

/-- BCN-V2: one window differs from W in one bit. -/
theorem witness_SingleErrorsAreCorrected :
    (∀ k, k < 42 → ((windowA maskV2).getLsbD k = (0x0079ACE3670 : BitVec 42).getLsbD k ∧
        (windowC maskV2).getLsbD k = (0x0079ACE3670 : BitVec 42).getLsbD k)) ∧
      ∀ k, k < 42 → maskBit maskV2 (86 + k) = maskBit (maskOf 0x0079ACE3670 0) (86 + k) ∧
        maskBit maskV2 (2 + k) = maskBit (maskOf 0x0079ACE3670 0) (2 + k) := by decide +kernel

theorem witness_MaskOfThreeCopiesDecodesToItsWord :
    0 < 128 ∧ 127 < 128 ∧ (beaconState maskV1.toList).inlen = 16 ∧
      readMask (beaconState maskV1.toList) = maskOf 0x0079ACE3670 0 := by decide +kernel

theorem witness_BcnVoteReportsTheVote : (beaconState maskV1.toList).inlen = 16 ∧
    ({ beaconState maskV1.toList with inlen := 15 } : State).inlen ≠ 16 := by decide +kernel

theorem witness_BcnDecodeAcceptsProtocolOne : (beaconState maskP1.toList).inlen = 16 ∧
    (0x1ABCDEF5555 : BitVec 42) = votedWord (readMask (beaconState maskP1.toList)) ∧
    (0x1ABCDEF5555 : BitVec 42).extractLsb' 40 2 = 1 := by decide +kernel

/-- BCN-D1 and BCN-T6: the sentinel. -/
theorem witness_BcnDecodeAcceptsProtocolZero : (beaconState maskV1.toList).inlen = 16 ∧
    (0x0079ACE3670 : BitVec 42) = votedWord (readMask (beaconState maskV1.toList)) ∧
    (0x0079ACE3670 : BitVec 42).extractLsb' 40 2 = 0 ∧
    (0x0079ACE3670 : BitVec 42).extractLsb' 32 8 = (beaconState maskV1.toList).bcfg ∧
    (beaconState maskV1.toList).status.keyed = true ∧
    ((0xCAFE, 0x1234) : Half × Half) = rc5Dec (beaconState maskV1.toList).subkeys
      ((0x0079ACE3670 : BitVec 42).extractLsb' 16 16) ((0x0079ACE3670 : BitVec 42).extractLsb' 0 16) := by
  decide +kernel

/-- BCN-V6, BCN-P2, BCN-D2, BCN-D3 and BCN-T4: one per clause. -/
theorem witness_BcnDecodeEndsShortInOrder :
    ({ beaconState maskV1.toList with inlen := 15 } : State).inlen ≠ 16 ∧
      2 ≤ ((votedWord (readMask (beaconState maskP2.toList))).extractLsb' 40 2).toNat ∧
      ((votedWord maskV1).extractLsb' 40 2 = 0 ∧ (votedWord maskV1).extractLsb' 32 8 = 7 ∧ (7 : Byte) ≠ 8) ∧
      readMask (beaconState maskV1.toList) = maskV1 ∧
      ({ beaconState maskV1.toList with status := Status.reset } : State).status.keyed = false ∧
      ((votedWord maskT4).extractLsb' 40 2 = 0 ∧ (votedWord maskT4).extractLsb' 32 8 = 7 ∧
        rc5Dec tableKS ((votedWord maskT4).extractLsb' 16 16) ((votedWord maskT4).extractLsb' 0 16) =
          (0x68AE, 0x1234) ∧
        ¬((0x68AE : Half) = 0xCAFE ∨ (0x68AE : Half) = timeTick 0x12345678 ∨
          (0x68AE : Half) = timeTick 0x12345678 + 1 ∨ (0x68AE : Half) = timeTick 0x12345678 - 1)) := by
  decide +kernel

/-- The walk's length byte, a payload that fails each check of R189, and one that passes, with company id 0x004C. -/
theorem witness_LocateFollowsTheWalk :
    (20 : Nat) = (([20, 0xFF] : List Byte).getD 0 0).toNat ∧
      ([0x4C, 0x00, 0x01] ++ maskV1.toList.take 15).length ≠ 19 ∧
      ([0x4D, 0x00, 0x01] ++ maskV1.toList).getD 0 0 ≠ (0x004C : BitVec 16).extractLsb' 0 8 ∧
      ([0x4C, 0x01, 0x01] ++ maskV1.toList).getD 1 0 ≠ (0x004C : BitVec 16).extractLsb' 8 8 ∧
      ([0x4C, 0x00, 0x02] ++ maskV1.toList).getD 2 0 ≠ 0x01 ∧
      (([0x4C, 0x00, 0x01] ++ maskV1.toList).length = 19 ∧
        ([0x4C, 0x00, 0x01] ++ maskV1.toList).getD 0 0 = (0x004C : BitVec 16).extractLsb' 0 8 ∧
        ([0x4C, 0x00, 0x01] ++ maskV1.toList).getD 1 0 = (0x004C : BitVec 16).extractLsb' 8 8 ∧
        ([0x4C, 0x00, 0x01] ++ maskV1.toList).getD 2 0 = 0x01) := by decide

theorem witness_LocateFindsTheFirstManufacturerField : ForeignPrefix [0x03, 0x03, 0xAA, 0xFE] :=
  .cons 0x03 [0xAA, 0xFE] [] (by decide) (by decide) .nil

/-- The record of one manufacturer field with the open company id. -/
def scanState (m : Bytes16) : State :=
  { beaconState (manufacturerField Config.companyId m) with inlen := 21 }

theorem readBytes_scanState (m : Bytes16) :
    readBytes (scanState m) 0x1000 (scanState m).inlen.toNat = manufacturerField Config.companyId m := by
  have hl : (manufacturerField Config.companyId m).length = 21 := by simp [manufacturerField, adStructure]
  apply List.ext_getElem
  · rw [readBytes_length, hl]
    rfl
  · intro k h1 h2
    rw [readBytes_getElem]
    have e := readByte_memWrite State.reset inBase (manufacturerField Config.companyId m) (0x1000 + k)
    rw [dif_pos (by simp only [inBase]; omega)] at e
    exact Eq.trans e (by simp)

theorem locate_scanState (m : Bytes16) (cid : BitVec 16) : locate cid (manufacturerField cid m) = some m := by
  have hd : ([cid.extractLsb' 0 8, cid.extractLsb' 8 8, 0x01] ++ m.toList).length = 19 := by simp
  have e : manufacturerMask cid ([cid.extractLsb' 0 8, cid.extractLsb' 8 8, 0x01] ++ m.toList) = some m := by
    rw [manufacturerMask, if_neg (by rw [hd]; decide), if_neg (by simp), if_neg (by simp), Option.some.injEq]
    apply Vector.ext
    intro k hk
    rw [Vector.getElem_ofFn, List.getD_eq_getElem?_getD, List.getElem?_append_right (by simp)]
    simp [hk]
  have ht : m.toList.take 16 = m.toList := List.take_of_length_le (by simp)
  rw [manufacturerField, locate, locateFrom, adStructure]
  simpa [ht] using e

theorem witness_BcnScanDecodesTheLocatedMask :
    (scanState maskV1).inlen.toNat ≤ 4096 ∧
      locate Config.companyId (readBytes (scanState maskV1) 0x1000 (scanState maskV1).inlen.toNat) = some maskV1 ∧
      readMask (beaconState maskV1.toList) = maskV1 ∧ (beaconState maskV1.toList).inlen = 16 ∧
      (beaconState maskV1.toList).bcfg = (scanState maskV1).bcfg ∧
      (beaconState maskV1.toList).now = (scanState maskV1).now ∧
      (beaconState maskV1.toList).brssi = (scanState maskV1).brssi ∧
      (beaconState maskV1.toList).subkeys = (scanState maskV1).subkeys ∧
      (beaconState maskV1.toList).status.keyed = (scanState maskV1).status.keyed :=
  ⟨by decide, by rw [readBytes_scanState]; exact locate_scanState _ _, by decide +kernel, rfl, rfl, rfl, rfl, rfl, rfl⟩

theorem witness_BcnScanAcceptsLocatedRecords :
    (∀ m, (scanState m).inlen.toNat ≤ 4096 ∧
      locate Config.companyId (readBytes (scanState m) 0x1000 (scanState m).inlen.toNat) = some m) ∧
      (votedWord maskP1).extractLsb' 40 2 = 1 ∧ (votedWord maskV1).extractLsb' 40 2 = 0 ∧
      (votedWord maskV1).extractLsb' 32 8 = (scanState maskV1).bcfg ∧ (scanState maskV1).status.keyed = true ∧
      ((0xCAFE, 0x1234) : Half × Half) = rc5Dec (scanState maskV1).subkeys ((votedWord maskV1).extractLsb' 16 16)
        ((votedWord maskV1).extractLsb' 0 16) :=
  ⟨fun m => ⟨show 21 ≤ 4096 by decide, by rw [readBytes_scanState]; exact locate_scanState _ _⟩, by decide +kernel,
    by decide +kernel, by decide +kernel, rfl, by decide +kernel⟩

/-- BCN-S11, BCN-S6 and BCN-S7: one per clause. -/
theorem witness_BcnScanEndsShort :
    4096 < ({ State.reset with inlen := 4097 } : State).inlen.toNat ∧
      (∀ cid, locate cid (readBytes { withInput [0] with inlen := 1 } 0x1000 1) = none) ∧ State.reset.inlen = 0 := by
  refine ⟨by decide, ?_, rfl⟩
  intro cid
  rw [show readBytes { withInput [0] with inlen := 1 } 0x1000 1 = [0] by decide +kernel]
  rfl

theorem witness_BeaconCommandsForgetStaleResults : Instr.bcnVote = .bcnVote ∧ Instr.bcnDecode = .bcnDecode ∧
    Instr.bcnScan = .bcnScan := ⟨rfl, rfl, rfl⟩

theorem witness_SeedsAndTagsFollowTheNonces : hostSetup.sessionMode = true ∧
    ({ hostSetup with sessionMode := false } : HostData).sessionMode = false := ⟨rfl, rfl⟩

theorem witness_BufferLengthsFit : 4 ≤ 4 ∧ 4 < 5 := by decide

/-- The empty plaintext and the longest. -/
theorem witness_PacketsRoundTripThroughTheBlock :
    resolveKey (fun _ => keyKS) hostSetup .admin = .ok keyKS ∧ ([] : List Byte).length ≤ 4092 ∧
      (List.replicate 4092 (0 : Byte)).length ≤ 4092 := ⟨rfl, by decide, by rw [List.length_replicate]⟩

end Sys2Proof.Tests
end

/-! PROOF. What a command and what a step can do, each said once (10_state.md R20 to R54). -/

namespace Sys2Proof.Machine

open Sys2Proof

/-- What every command does to the parts of the state: operands, CMD and port stay; OUT_BUF is written from its start
for OUTLEN bytes; the table and KEYED are RC5_SETKEY's; the result registers stay coherent. -/
structure CommandEffect (i : Instr) (s t : State) : Prop where
  operands : SameOperands s t
  port : SamePort s t
  cmd : t.cmd = s.cmd
  mem : ∃ bs, t.mem = memWrite s.mem outBase bs ∧ bs.length = t.outlen.toNat
  outlen_le : t.outlen.toNat ≤ bufBytes
  outlen_ok : t.outlen ≠ 0 →
    (i = .ctrEncrypt ∨ i = .ctrDecrypt) ∧ t.status.err = .ok ∧ t.status.bvalid = false
  status : t.status.Coherent
  keyed : i ≠ .rc5SetKey → t.status.keyed = s.status.keyed
  subkeys : i ≠ .rc5SetKey → t.subkeys = s.subkeys
  blank : s.UnkeyedBlank → t.UnkeyedBlank
  beacon : s.BeaconCoherent → t.BeaconCoherent

/-- A status that can end a command is coherent. -/
theorem EndStatus.coherent {k : Bool} {st : Status} (h : EndStatus k st) : st.Coherent := h.2

/-- A status that can end a command has the KEYED it was given. -/
theorem EndStatus.keyed_eq {k : Bool} {st : Status} (h : EndStatus k st) : st.keyed = k := h.1

/-- Without BVALID the beacon registers need only agree with their vote. -/
theorem beaconCoherent_of_not_bvalid {s t : State} (hb : t.bcn = s.bcn) (hv : t.status.bvalid = false)
    (h : s.BeaconCoherent) : t.BeaconCoherent := by
  obtain ⟨hp, -⟩ := h
  exact ⟨hb ▸ hp, by simp [hv]⟩

/-- RC5_SETKEY: the table is installed and KEYED is set. -/
theorem rc5SetKey_effect (s : State) : CommandEffect .rc5SetKey s (rc5SetKey s) := by
  rw [rc5SetKey_eq]
  generalize rc5KeyExpand (keyBytes s) = T
  exact {
    operands := by simp [SameOperands]
    port := by simp [SamePort]
    cmd := rfl
    mem := ⟨[], rfl, rfl⟩
    outlen_le := Nat.zero_le _
    outlen_ok := fun h => absurd rfl h
    status := by simp [Status.Coherent]
    keyed := fun h => absurd rfl h
    subkeys := fun h => absurd rfl h
    blank := fun _ hk => by simp at hk
    beacon := beaconCoherent_of_not_bvalid rfl rfl }

/-- An RC5 block command: only RC5_OUT and the result change, and RC5_OUT only with a key. -/
theorem rc5Block_effect {i : Instr} (f : Vector Half 26 → Half → Half → Half × Half) (s : State) :
    CommandEffect i s (rc5Block f s) := by
  obtain ⟨w, st, ht, he, hv, hw⟩ := rc5Block_step f s
  rw [ht]
  exact {
    operands := by simp [SameOperands]
    port := by simp [SamePort]
    cmd := rfl
    mem := ⟨[], rfl, rfl⟩
    outlen_le := Nat.zero_le _
    outlen_ok := fun h => absurd rfl h
    status := he.coherent
    keyed := fun _ => he.keyed_eq
    subkeys := fun _ => rfl
    blank := fun hs hk => by
      have hk' : s.status.keyed = false := he.keyed_eq.symm.trans hk
      simpa [hw hk'] using hs hk'
    beacon := beaconCoherent_of_not_bvalid rfl hv }

/-- A CTR command: only OUT_BUF below OUTLEN and the result change. -/
theorem CtrStep.effect {i : Instr} {s t : State} (hi : i = .ctrEncrypt ∨ i = .ctrDecrypt) (h : CtrStep s t) :
    CommandEffect i s t := by
  obtain ⟨bs, st, rfl, hl, he, hv, hok⟩ := h
  have hn : (BitVec.ofNat 13 bs.length).toNat = bs.length := by
    rw [BitVec.toNat_ofNat, Nat.mod_eq_of_lt (Nat.lt_of_le_of_lt hl (by decide))]
  exact {
    operands := by simp [SameOperands, writeOut]
    port := by simp [SamePort, writeOut]
    cmd := rfl
    mem := ⟨bs, rfl, hn.symm⟩
    outlen_le := hn.trans_le hl
    outlen_ok := fun h0 => ⟨hi, hok fun hb => h0 (by simp [hb]), hv⟩
    status := he.coherent
    keyed := fun _ => he.keyed_eq
    subkeys := fun _ => rfl
    blank := fun hs hk => hs (he.keyed_eq.symm.trans hk)
    beacon := beaconCoherent_of_not_bvalid rfl hv }

/-- A beacon command: only the beacon registers and the result change, and nothing decrypted shows without a key. -/
theorem BeaconStep.effect {i : Instr} {s t : State} (h : BeaconStep s t) : CommandEffect i s t := by
  obtain ⟨b, st, rfl, he, hp, hv, hd⟩ := h
  exact {
    operands := by simp [SameOperands]
    port := by simp [SamePort]
    cmd := rfl
    mem := ⟨[], rfl, rfl⟩
    outlen_le := Nat.zero_le _
    outlen_ok := fun h => absurd rfl h
    status := he.coherent
    keyed := fun _ => he.keyed_eq
    subkeys := fun _ => rfl
    blank := fun hs hk => by
      have hk' : s.status.keyed = false := he.keyed_eq.symm.trans hk
      exact ⟨(hs hk').1, hd hk'⟩
    beacon := fun _ => ⟨hp, hv⟩ }

/-- Every command has that effect. -/
theorem exec_effect {i : Instr} {s t : State} (h : exec i s = .next t) : CommandEffect i s t := by
  obtain ⟨t', ht, hc⟩ := exec_cases i s
  cases h.symm.trans ht
  rcases hc with ⟨rfl, rfl⟩ | (⟨rfl, rfl⟩ | ⟨rfl, rfl⟩) | ⟨hi, hctr⟩ | ⟨-, hbcn⟩
  · exact rc5SetKey_effect s
  · exact rc5Block_effect rc5Dec s
  · exact rc5Block_effect rc5Enc s
  · exact hctr.effect hi
  · exact hbcn.effect

/-- A buffer byte after a command: one of the bytes written below OUTLEN, else as before. -/
theorem CommandEffect.readByte_eq {i : Instr} {s t : State} (h : CommandEffect i s t) {a : Nat}
    (ha : a < outBase ∨ outBase + t.outlen.toNat ≤ a) : readByte t a = readByte s a := by
  obtain ⟨bs, hm, hl⟩ := h.mem
  rw [readByte_congr (s := s.setMem (memWrite s.mem outBase bs)) hm h.port.2.2, readByte_memWrite,
    dif_neg (by omega)]

/-- Everything a step can do, with the access it performs. -/
inductive StepEffect (s : State) : State → Prop
  | idle (hp : s.pending = []) : StepEffect s s
  | reset (rest : List HostAccess) (hp : s.pending = .reset :: rest) : StepEffect s (resetBlock (s.setPending rest))
  | command (w : Word) (rest : List HostAccess) (i : Instr) (t : State) (hp : Offers s w rest) (hd : decode w = .ok i)
      (he : exec i ((s.setPending rest).setCmd w) = .next t) : StepEffect s t
  | illegal (w : Word) (rest : List HostAccess) (e : DecodeReject) (hp : Offers s w rest) (hd : decode w = .error e) :
      StepEffect s (raiseError .illegalCommand ((s.setPending rest).setCmd w))
  | store (off : Nat) (v : Word) (rest : List HostAccess) (t : State) (hp : s.pending = .store .host 4 off v :: rest)
      (h0 : off ≠ 0) (ht : PlainStore v (s.setPending rest) t) : StepEffect s t
  | load (off : Nat) (rest : List HostAccess) (hp : s.pending = .load .host 4 off :: rest) :
      StepEffect s ((s.setPending rest).addAnswer (windowWord (s.setPending rest) off))

/-- Every step has one of those effects. -/
theorem step_effect {s t : State} (h : step s = .next t) : StepEffect s t := by
  rcases step_cases h with ⟨hp, rfl⟩ | ⟨a, rest, hp, ha⟩
  · exact .idle hp
  rcases performAccess_cases ha with ⟨rfl, rfl⟩ | ⟨w, rfl, hw⟩ | ⟨off, v, rfl, h0, hs⟩ | ⟨off, rfl, rfl⟩
  · exact .reset rest hp
  · rcases issueCommand_cases w (s.setPending rest) with ⟨i, hd, hi⟩ | ⟨⟨e, hd⟩, hi⟩
    · exact .command w rest i t hp hd (hi.symm.trans hw)
    · cases hi.symm.trans hw
      exact .illegal w rest e hp hd
  · exact .store off v rest t hp h0 hs
  · exact .load off rest hp

/-- What a store that issues no command leaves unchanged. -/
theorem PlainStore.keeps {v : Word} {s t : State} (h : PlainStore v s t) :
    t.status = s.status ∧ t.outlen = s.outlen ∧ t.rc5Out = s.rc5Out ∧ t.bcn = s.bcn ∧ t.subkeys = s.subkeys := by
  rcases h with rfl | ⟨r, hr, rfl⟩ | ⟨off, -, -, rfl⟩
  · exact ⟨rfl, rfl, rfl, rfl, rfl⟩
  · obtain ⟨-, hst, hol, hro, hb, hk, -⟩ := writeReg_keeps hr v s
    exact ⟨hst, hol, hro, hb, hk⟩
  · exact ⟨rfl, rfl, rfl, rfl, rfl⟩

/-- A store that issues no command keeps memory in canonical form. -/
theorem PlainStore.mem_wf {v : Word} {s t : State} (h : PlainStore v s t) (hs : Memory.wf s.mem = true) :
    Memory.wf t.mem = true := by
  rcases h with rfl | ⟨r, hr, rfl⟩ | ⟨off, hlo, hhi, rfl⟩
  · exact hs
  · obtain ⟨-, -, -, -, -, -, hm, -⟩ := writeReg_keeps hr v s
    rwa [hm]
  · exact memWrite_wf hs hlo (Nat.le_trans hhi (by decide))

end Sys2Proof.Machine

/-! PROOF. The invariant holds at reset and every step keeps it (10_state.md R24 to R26, R36 to R42, R49, R53). -/

namespace Sys2Proof.Machine

open Sys2Proof

/-- The invariant speaks of memory, STATUS, OUTLEN, RC5_OUT and the beacon registers only. -/
theorem State.Inv.congr {s t : State} (h : s.Inv) (hm : Memory.wf t.mem = true) (hst : t.status = s.status)
    (hol : t.outlen = s.outlen) (hro : t.rc5Out = s.rc5Out) (hb : t.bcn = s.bcn) : t.Inv := by
  obtain ⟨-, hc, ho, hu, hbc⟩ := h
  unfold State.Inv State.OutlenCoherent State.UnkeyedBlank State.BeaconCoherent at *
  rw [hst, hol, hro, hb]
  exact ⟨hm, hc, ho, hu, hbc⟩

/-- The state at reset is all zeros. -/
theorem inv_reset : State.reset.Inv :=
  ⟨Memory.wf_reset, by simp [Status.Coherent, State.reset, Status.reset], ⟨Nat.zero_le _, fun h => absurd rfl h⟩,
    fun _ => ⟨rfl, rfl, rfl, rfl, rfl, rfl⟩, .inl rfl, fun _ => .inl rfl⟩

/-- A platform reset leaves what the invariant speaks of as at `State.reset`. -/
theorem inv_resetBlock (s : State) : (resetBlock s).Inv := inv_reset.congr Memory.wf_reset rfl rfl rfl rfl

/-- Every command keeps the invariant. -/
theorem CommandEffect.keeps_inv {i : Instr} {s t : State} (h : CommandEffect i s t) (hs : s.Inv) : t.Inv := by
  obtain ⟨hm, -, -, hu, hb⟩ := hs
  obtain ⟨bs, ht, hl⟩ := h.mem
  have hle := h.outlen_le
  refine ⟨?_, h.status, ⟨hle, fun h0 => (h.outlen_ok h0).2⟩, h.blank hu, h.beacon hb⟩
  rw [ht]
  exact memWrite_wf hm (by decide) (by simp only [outBase, bufBytes, bufEnd] at *; omega)

/-- An error keeps the invariant. -/
theorem inv_raiseError {e : ErrCode} {s : State} (he : e ≠ .keyUnavailable ∧ e ≠ .unsupported ∧ e ≠ .notFound)
    (hs : s.Inv) : (raiseError e s).Inv := by
  obtain ⟨hm, -, -, hu, hb⟩ := hs
  exact ⟨hm, (errorStatus_end _ he).coherent, ⟨Nat.zero_le _, fun h => absurd rfl h⟩, hu,
    beaconCoherent_of_not_bvalid (s := s) rfl rfl hb⟩

/-- Settles O8: every register is 0 at reset. -/
theorem resetMeetsTheInvariant : Obligations.ResetMeetsTheInvariant := inv_reset

/-- Settles O9, by the effect of the step. -/
theorem stepKeepsTheInvariant : Obligations.StepKeepsTheInvariant := by
  intro s t hs h
  cases step_effect h with
  | idle hp => exact hs
  | reset rest hp => exact inv_resetBlock _
  | command w rest i t hp hd he =>
    exact (exec_effect he).keeps_inv (hs.congr hs.1 rfl rfl rfl rfl)
  | illegal w rest e hp hd => exact inv_raiseError (by simp) (hs.congr hs.1 rfl rfl rfl rfl)
  | store off v rest t hp h0 ht =>
    obtain ⟨hst, hol, hro, hb, -⟩ := ht.keeps
    exact hs.congr (ht.mem_wf hs.1) hst hol hro hb
  | load off rest hp => exact hs.congr hs.1 rfl rfl rfl rfl

end Sys2Proof.Machine

/-! PROOF. What commands and steps leave unchanged (10_state.md R21, R23, R26, R46 to R49). -/

namespace Sys2Proof.Machine

open Sys2Proof

/-- Settles O21: the frame part of a command's effect. -/
theorem commandsKeepOperandsAndInBuf : Obligations.CommandsKeepOperandsAndInBuf := by
  intro i s t h
  have he := exec_effect h
  exact ⟨he.operands, he.port, he.cmd, fun a ha => he.readByte_eq (.inl ha)⟩

/-- Settles O22: the output part of a command's effect. -/
theorem outlenBoundsWhatIsWritten : Obligations.OutlenBoundsWhatIsWritten := by
  intro i s t h
  have he := exec_effect h
  refine ⟨fun a ha => he.readByte_eq ha, fun h0 => ?_⟩
  obtain ⟨hi, hok, -⟩ := he.outlen_ok h0
  exact ⟨hi, hok⟩

/-- Only the word 1 is RC5_SETKEY (30_encoding.md R81). -/
theorem eq_one_of_decode_rc5SetKey {w : Word} (h : decode w = .ok .rc5SetKey) : w = 0x00000001 := by
  rcases decode_cases w with ⟨r, hr, rfl, hd⟩ | ⟨-, hd⟩
  · have key : ∀ r ∈ opcodeTable, r.instr = .rc5SetKey → r.value = 0x00000001 := by decide
    exact key r hr (Except.ok.inj (hd.symm.trans h))
  · cases hd.symm.trans h

/-- A step that issues RC5_SETKEY. -/
theorem step_rc5SetKey {s : State} {rest : List HostAccess} (h : Offers s 0x00000001 rest) :
    step s = .next (rc5SetKey ((s.setPending rest).setCmd 0x00000001)) := step_issue h

/-- A step that is neither a reset nor RC5_SETKEY keeps KEYED and the subkey table (10_state.md R48, R49). -/
theorem StepEffect.keeps_key {s t : State} (h : StepEffect s t) (hr : ∀ rest, s.pending ≠ .reset :: rest)
    (hk : ∀ rest, ¬ Offers s 0x00000001 rest) : t.status.keyed = s.status.keyed ∧ t.subkeys = s.subkeys := by
  cases h with
  | idle hp => exact ⟨rfl, rfl⟩
  | reset rest hp => exact absurd hp (hr rest)
  | command w rest i t hp hd he =>
    have hi : i ≠ .rc5SetKey := by
      rintro rfl
      exact hk rest (eq_one_of_decode_rc5SetKey hd ▸ hp)
    have hc := exec_effect he
    exact ⟨hc.keyed hi, hc.subkeys hi⟩
  | illegal w rest e hp hd => exact ⟨rfl, rfl⟩
  | store off v rest t hp h0 ht =>
    obtain ⟨hst, -, -, -, hsub⟩ := ht.keeps
    exact ⟨congrArg Status.keyed hst, hsub⟩
  | load off rest hp => exact ⟨rfl, rfl⟩

/-- Settles O24: reset and RC5_SETKEY by what their steps do, any other step by `StepEffect.keeps_key`. -/
theorem keyedChangesOnlyBySetkeyAndReset : Obligations.KeyedChangesOnlyBySetkeyAndReset := by
  intro s t h
  refine ⟨fun rest hp => ?_, fun rest hp => ?_, fun hr hk => ((step_effect h).keeps_key hr hk).1⟩
  · cases (step_pending hp).symm.trans h
    rfl
  · cases (step_rc5SetKey hp).symm.trans h
    rfl

/-- Settles O25: RC5_SETKEY by what its step does, any other step by `StepEffect.keeps_key`. -/
theorem subkeyTableIsASnapshot : Obligations.SubkeyTableIsASnapshot := by
  intro s t h
  refine ⟨fun rest hp => ?_, fun hr hk => ((step_effect h).keeps_key hr hk).2⟩
  cases (step_rc5SetKey hp).symm.trans h
  rw [rc5SetKey_eq, setResult_subkeys, setSubkeys_subkeys]
  rfl

end Sys2Proof.Machine

/-! PROOF. The host's loads and stores, place by place (10_state.md R51, 20_memory.md R60 to R63). -/

namespace Sys2Proof.Machine

open Sys2Proof

/-- A register other than CMD takes a store's defined bits and no command runs. -/
theorem hostStore_reg {off : Nat} {r : Reg} (hp : placeAt off = .reg r) (hr : r ≠ .cmd) (v : Word) (s : State) :
    hostStore off v s = .next (writeReg r v s) := by
  rw [hostStore, hp]
  cases r
  case cmd => exact absurd rfl hr
  all_goals rfl

/-- A step whose next access is an aligned store in the window. -/
theorem step_store {s : State} {off : Nat} {v : Word} {rest : List HostAccess}
    (hp : s.pending = .store .host 4 off v :: rest) (h : off < 0x4000) (h4 : off % 4 = 0) :
    step s = hostStore off v (s.setPending rest) := by
  rw [step_pending hp, performAccess_store off v _ h h4]

/-- A step whose next access is an aligned load in the window. -/
theorem step_load {s : State} {off : Nat} {rest : List HostAccess} (hp : s.pending = .load .host 4 off :: rest)
    (h : off < 0x4000) (h4 : off % 4 = 0) :
    step s = .next ((s.setPending rest).addAnswer (windowWord (s.setPending rest) off)) := by
  rw [step_pending hp, performAccess, accessStop_none h h4, Option.getD_none, hostLoad_window _ h]

/-- The registers stand on aligned offsets up to 0x06C. -/
theorem regOffset_range (r : Reg) : regOffset r ≤ 0x06C ∧ regOffset r % 4 = 0 := by
  cases r <;> decide

/-- A step that stores to a register other than CMD. -/
theorem step_store_reg {s : State} {off : Nat} {v : Word} {rest : List HostAccess} {r : Reg}
    (hp : s.pending = .store .host 4 off v :: rest) (ho : off = regOffset r) (hr : r ≠ .cmd) :
    step s = .next (writeReg r v (s.setPending rest)) := by
  obtain ⟨hle, h4⟩ := regOffset_range r
  subst ho
  rw [step_store hp (by omega) h4, hostStore_reg (placeAt_regOffset r) hr]

/-- A read-only register ignores a store. -/
theorem writeReg_readOnly (v : Word) (s : State) : ∀ r ∈ readOnlyRegs, writeReg r v s = s := by
  simp [readOnlyRegs, writeReg]

/-- 0x03C and the offsets from 0x070 to IN_BUF hold no register. -/
theorem placeAt_reserved_of_gap {off : Nat} (h : off = 0x03C ∨ (0x070 ≤ off ∧ off < 0x1000)) :
    placeAt off = .reserved := by
  rcases h with rfl | ⟨hlo, hhi⟩
  · decide
  · refine placeAt_reserved_low hhi fun r hr => ?_
    have := (regOffset_range r).1
    omega

/-- Settles O13: each RW register's offset, and what `writeReg` puts there. -/
theorem storeKeepsDefinedBits : Obligations.StoreKeepsDefinedBits := by
  intro s off v rest hp
  have store (r : Reg) (hr : r ≠ .cmd) (ho : off = regOffset r) := step_store_reg hp ho hr
  rw [← BitVec.setWidth_eq_extractLsb' (by decide), ← BitVec.setWidth_eq_extractLsb' (by decide)]
  exact ⟨store .inlen (by decide), store .outcap (by decide), store .now (by decide), store .bcfg (by decide),
    store .brssi (by decide), store .key0 (by decide), store .key1 (by decide), store .key2 (by decide),
    store .key3 (by decide), store .ivseed0 (by decide), store .ivseed1 (by decide), store .tag (by decide),
    store .rc5In (by decide)⟩

/-- Settles O14, place by place. -/
theorem storeToReadOnlyPlaceIgnored : Obligations.StoreToReadOnlyPlaceIgnored := by
  intro s off v rest hp h4 hplace
  have ignored (h : off < 0x4000) (hr : placeAt off = .reserved ∨ ∃ k, placeAt off = .outBuf k) :
      step s = .next (s.setPending rest) := by
    rw [step_store hp h h4, hostStore]
    rcases hr with hr | ⟨k, hr⟩ <;> rw [hr]
  rcases hplace with ⟨r, hr, ho⟩ | hgap | hgap | ⟨hlo, hhi⟩
  · have hcmd : r ≠ .cmd := by rintro rfl; exact absurd hr (by decide)
    rw [step_store_reg hp ho hcmd, writeReg_readOnly v _ r hr]
    rfl
  · exact ignored (by omega) (.inl (placeAt_reserved_of_gap (.inl hgap)))
  · exact ignored (by omega) (.inl (placeAt_reserved_of_gap (.inr hgap)))
  · by_cases hb : off < bufEnd
    · exact ignored hhi (.inr ⟨_, placeAt_outBuf hlo hb⟩)
    · exact ignored hhi (.inl (placeAt_reserved (by omega) hhi))

/-- A load depends on the registers and the buffers only. -/
theorem windowWord_congr {s t : State} (off : Nat) (hr : ∀ r, readReg t r = readReg s r) (hm : t.mem = s.mem)
    (hd : t.draws = s.draws) : windowWord t off = windowWord s off := by
  simp only [windowWord, readBufWord, readByte_congr hm hd, hr]

/-- A load at a register's offset gives the register. -/
theorem windowWord_regOffset (s : State) (r : Reg) : windowWord s (regOffset r) = readReg s r := by
  rw [windowWord, placeAt_regOffset]

/-- A load at a reserved offset gives 0. -/
theorem windowWord_reserved {off : Nat} (s : State) (h : placeAt off = .reserved) : windowWord s off = 0 := by
  rw [windowWord, h]

/-- A load from either buffer gives the word of the buffer's bytes. -/
theorem windowWord_buffer {off : Nat} (s : State) (hlo : inBase ≤ off) (hhi : off < bufEnd) :
    windowWord s off = readBufWord s off := by
  by_cases h : off < outBase
  · rw [windowWord, placeAt_inBuf hlo h]
    simp only [Nat.add_sub_cancel' hlo]
  · have ho : outBase ≤ off := by omega
    rw [windowWord, placeAt_outBuf ho hhi]
    simp only [Nat.add_sub_cancel' ho]

/-- Lane `j` of a buffer word is the byte at offset `j` (20_memory.md R63). -/
theorem readBufWord_lane (s : State) (a : Nat) {j : Nat} (h : j < 4) : lane (readBufWord s a) j = readByte s (a + j) := by
  obtain ⟨h0, h1, h2, h3⟩ :=
    lane_wordOfBytes (readByte s a) (readByte s (a + 1)) (readByte s (a + 2)) (readByte s (a + 3))
  match j with
  | 0 => exact h0
  | 1 => exact h1
  | 2 => exact h2
  | 3 => exact h3

/-- Settles O17: the word is `windowWord`, read place by place. -/
theorem loadReturnsTheCurrentValue : Obligations.LoadReturnsTheCurrentValue := by
  refine ⟨by decide, fun s off rest hp h h4 => ⟨windowWord s off, ?_, ?_, ?_, ?_⟩⟩
  · rw [step_load hp h h4, windowWord_congr (s := s) off (fun r => by cases r <;> rfl) rfl rfl]
    rfl
  · rintro r rfl
    exact windowWord_regOffset s r
  · rintro (hgap | hgap | hhi)
    · exact windowWord_reserved s (placeAt_reserved_of_gap (.inl hgap))
    · exact windowWord_reserved s (placeAt_reserved_of_gap (.inr hgap))
    · exact windowWord_reserved s (placeAt_reserved hhi h)
  · rintro ⟨hlo, hhi⟩ j hj
    rw [windowWord_buffer s hlo hhi]
    exact readBufWord_lane s off hj

end Sys2Proof.Machine

/-! PROOF. The words the registers read as (10_state.md R23 to R45, R53). -/

namespace Sys2Proof.Machine

open Sys2Proof

/-- Settles O6, register by register. -/
theorem registersReadZeroAfterReset : Obligations.RegistersReadZeroAfterReset := by
  refine ⟨fun r => ?_, rfl⟩
  cases r <;> rfl

/-- Concatenation puts the left number above the right one. -/
theorem toNat_append_eq_add {m n : Nat} (a : BitVec m) (b : BitVec n) :
    (a ++ b).toNat = 2 ^ n * a.toNat + b.toNat := by
  rw [BitVec.toNat_append, ← Nat.shiftLeft_add_eq_or_of_lt b.isLt, Nat.shiftLeft_eq, Nat.mul_comm]

/-- BFIELDS as a number: each field times the weight of its lowest bit (10_state.md R42). -/
theorem bfieldsWord_toNat (b : BeaconRegs) :
    (bfieldsWord b).toNat =
      b.loc.toNat + 2 ^ 8 * b.prof.toNat + 2 ^ 12 * b.off.toNat + 2 ^ 16 * b.flags.toNat := by
  simp only [bfieldsWord, toNat_append_eq_add, BitVec.toNat_ofNat]
  omega

/-- Settles O19: a zero extension keeps the number, and BFIELDS is the sum of its fields. -/
theorem narrowRegistersReadZeroExtended : Obligations.NarrowRegistersReadZeroExtended := by
  intro s
  have wide {n : Nat} (x : BitVec n) (h : n ≤ 32) : (x.setWidth 32).toNat = x.toNat :=
    BitVec.toNat_setWidth_of_le h
  exact ⟨wide s.outlen (by decide), wide s.inlen (by decide), wide s.outcap (by decide), wide s.bcfg (by decide),
    wide s.brssi (by decide), wide s.bcn.voteHi (by decide), wide s.bcn.proto (by decide),
    wide s.bcn.sphere (by decide), wide s.bcn.token (by decide), wide s.bcn.resv (by decide),
    wide s.bcn.rssiOut (by decide), bfieldsWord_toNat s.bcn, rfl, rfl, rfl, rfl, rfl, rfl, rfl, rfl, rfl, rfl, rfl,
    rfl, rfl, rfl⟩

/-- The slices of a word laid out as STATUS is (10_state.md R24). -/
theorem statusLayout_fields (d : BitVec 3) (v t k : Bool) (e : BitVec 4) {w : BitVec (21 + 3 + 1 + 1 + 1 + 1 + 4)}
    (hw : w = 0#21 ++ d ++ 0#1 ++ BitVec.ofBool v ++ BitVec.ofBool t ++ BitVec.ofBool k ++ e) :
    w.extractLsb' 0 4 = e ∧ w.getLsbD 4 = k ∧ w.getLsbD 5 = t ∧ w.getLsbD 6 = v ∧ w.getLsbD 7 = false ∧
      w.extractLsb' 8 3 = d ∧ w.extractLsb' 11 21 = 0 := by
  subst hw
  -- The widths stay sums, so that each slice matches the concatenation it is cut from.
  simp [-Nat.reduceAdd, -BitVec.getLsbD_eq_getElem, BitVec.getLsbD_append, BitVec.extractLsb'_append_eq_of_le,
    BitVec.extractLsb'_append_eq_right]

/-- Settles O18: `statusWord` is laid out so. -/
theorem statusReadsByFields : Obligations.StatusReadsByFields :=
  ⟨⟨rfl, rfl, rfl, rfl, rfl, rfl, rfl, rfl⟩, ⟨rfl, rfl, rfl, rfl, rfl⟩, fun _ => statusLayout_fields _ _ _ _ _ rfl⟩

end Sys2Proof.Machine

/-! PROOF. What no command reads: the flags but KEYED, OUTLEN, and the subkey table while KEYED = 0
(10_state.md R48, R49, R52). -/

namespace Sys2Proof.Machine

open Sys2Proof

/-- The state with STATUS, OUTLEN and the subkey table replaced: what a command does not read, if KEYED stays and the
table stays while KEYED = 1. -/
def State.veil (st : Status) (n : BitVec 13) (T : Vector Half 26) (s : State) : State :=
  (s.setResult st n).setSubkeys T

@[simp] theorem veil_inlen (st : Status) (n : BitVec 13) (T : Vector Half 26) (s : State) :
    (s.veil st n T).inlen = s.inlen := rfl

@[simp] theorem veil_bcfg (st : Status) (n : BitVec 13) (T : Vector Half 26) (s : State) :
    (s.veil st n T).bcfg = s.bcfg := rfl

/-- Stage 6 without a key. -/
theorem decryptRecord_unkeyed (V : BitVec 42) {s : State} (h : s.status.keyed = false) :
    decryptRecord V s = raiseError .notKeyed s := by
  rw [decryptRecord, if_neg (by simp [h])]

section

variable {s : State} {st : Status} (n : BitVec 13) {T : Vector Half 26} (hk : st.keyed = s.status.keyed)
include hk

/-- An error of a veiled state. -/
theorem raiseError_veil (e : ErrCode) : raiseError e (s.veil st n T) = (raiseError e s).setSubkeys T := by
  change (s.setResult (errorStatus e st) 0).setSubkeys T = _
  rw [errorStatus, hk]
  rfl

/-- A drop of a veiled state. -/
theorem raiseDrop_veil (d : DropReason) : raiseDrop d (s.veil st n T) = (raiseDrop d s).setSubkeys T := by
  change (s.setResult (dropStatus d st) 0).setSubkeys T = _
  rw [dropStatus, hk]
  rfl

/-- A success of a veiled state. -/
theorem complete_veil (m : Nat) (t b : Bool) :
    complete m t b (s.veil st n T) = (complete m t b s).setSubkeys T := by
  change (s.setResult (completeStatus t b st) (BitVec.ofNat 13 m)).setSubkeys T = _
  rw [completeStatus, hk]
  rfl

omit hk in
/-- RC5_SETKEY of a veiled state replaces the table too. -/
theorem rc5SetKey_veil : rc5SetKey (s.veil st n T) = rc5SetKey s := by
  rw [rc5SetKey_eq, rc5SetKey_eq, show keyBytes (s.veil st n T) = keyBytes s from rfl]
  generalize rc5KeyExpand (keyBytes s) = S
  rfl

/-- CTR_ENCRYPT of a veiled state. -/
theorem ctrEncrypt_veil (E : Bytes16 → Bytes16 → Bytes16) :
    ctrEncrypt E (s.veil st n T) = (ctrEncrypt E s).setSubkeys T := by
  by_cases h : blockLength s.outcap.toNat = true ∧ s.inlen.toNat ≤ s.outcap.toNat - 4
  · rw [ctrEncrypt_ok E h.1 h.2, ctrEncrypt_ok E (s := s.veil st n T) h.1 h.2]
    exact complete_veil (s := writeOut _ s) n hk _ _ _
  · have hbad : blockLength s.outcap.toNat = false ∨ s.outcap.toNat - 4 < s.inlen.toNat := by
      simpa [Decidable.imp_iff_not_or] using h
    rw [ctrEncrypt_bad E hbad, ctrEncrypt_bad E (s := s.veil st n T) hbad, raiseError_veil n hk]

/-- CTR_DECRYPT of a veiled state. -/
theorem ctrDecrypt_veil (E : Bytes16 → Bytes16 → Bytes16) :
    ctrDecrypt E (s.veil st n T) = (ctrDecrypt E s).setSubkeys T := by
  by_cases h : blockLength s.inlen.toNat = true ∧ s.outcap.toNat ≤ bufBytes
  · by_cases ht : (ctrPlain E (keyBytes s) (seedBytes s) (readIn s s.inlen.toNat)).take 4 = tagBytes s
    · rw [ctrDecrypt_ok E h.1 h.2 ht, ctrDecrypt_ok E (s := s.veil st n T) h.1 h.2 ht]
      exact complete_veil (s := writeOut _ s) n hk _ _ _
    · rw [ctrDecrypt_mismatch E h.1 h.2 ht, ctrDecrypt_mismatch E (s := s.veil st n T) h.1 h.2 ht,
        raiseError_veil n hk]
  · have hbad : blockLength s.inlen.toNat = false ∨ bufBytes < s.outcap.toNat := by
      simpa [Decidable.imp_iff_not_or] using h
    rw [ctrDecrypt_bad E hbad, ctrDecrypt_bad E (s := s.veil st n T) hbad, raiseError_veil n hk]

/-- BCN_VOTE of a veiled state. -/
theorem bcnVote_veil : bcnVote (s.veil st n T) = (bcnVote s).setSubkeys T := by
  rw [bcnVote, bcnVote, veil_inlen, show readMask (s.veil st n T) = readMask s from rfl]
  by_cases h : s.inlen.toNat ≠ 16
  · rw [if_pos h, if_pos h]
    exact raiseError_veil (s := clearBeacon s) n hk _
  · rw [if_neg h, if_neg h]
    exact complete_veil (s := recordVote _ (clearBeacon s)) n hk _ _ _

variable (hT : s.status.keyed = true → T = s.subkeys)
include hT

/-- An RC5 block command of a veiled state. -/
theorem rc5Block_veil (f : Vector Half 26 → Half → Half → Half × Half) :
    rc5Block f (s.veil st n T) = (rc5Block f s).setSubkeys T := by
  cases h : s.status.keyed with
  | false =>
    rw [rc5Block_unkeyed f h, rc5Block_unkeyed f (s := s.veil st n T) (hk.trans h), raiseError_veil n hk]
  | true =>
    obtain rfl := hT h
    rw [rc5Block_keyed f h, rc5Block_keyed f (s := s.veil st n s.subkeys) (hk.trans h)]
    exact complete_veil (s := s.setRc5Out (blockWord (f s.subkeys (lowHalf s.rc5In) (highHalf s.rc5In)))) n hk _ _ _

/-- Stages 4 to 8 of a veiled state: the table is read only with a key. -/
theorem dispatchProto_veil (V : BitVec 42) :
    dispatchProto V (s.veil st n T) = (dispatchProto V s).setSubkeys T := by
  cases h : s.status.keyed with
  | true =>
    obtain rfl := hT h
    have heq := dispatchProto_transfer V (s.veil st n s.subkeys) s s.bcn rfl rfl rfl rfl hk.symm
    have hself := dispatchProto_transfer V s s s.bcn rfl rfl rfl rfl rfl
    refine heq.trans ?_
    conv_rhs => rw [← setBcn_self s, hself]
    rfl
  | false =>
    by_cases p1 : protoField V = 1
    · rw [dispatchProto, dispatchProto, if_pos p1, if_pos p1]
      exact complete_veil (s := recordToken V s) n hk _ _ _
    by_cases p0 : protoField V = 0
    · rw [dispatchProto, dispatchProto, if_neg p1, if_neg p1, if_pos p0, if_pos p0, protocol0, protocol0, veil_bcfg]
      by_cases hs : sphereField V = s.bcfg
      · rw [if_pos hs, if_pos hs, decryptRecord_unkeyed V (s := recordEnc V (recordSphere V s)) h,
          decryptRecord_unkeyed V (s := recordEnc V (recordSphere V (s.veil st n T))) (hk.trans h)]
        exact raiseError_veil (s := recordEnc V (recordSphere V s)) n hk _
      · rw [if_neg hs, if_neg hs]
        exact raiseDrop_veil (s := recordSphere V s) n hk _
    · rw [dispatchProto, dispatchProto, if_neg p1, if_neg p1, if_neg p0, if_neg p0]
      exact raiseDrop_veil n hk _

/-- DecodeMask after ClearBeaconResults of a veiled state. -/
theorem decodeMask_veil (m : Bytes16) :
    decodeMask m (clearBeacon (s.veil st n T)) = (decodeMask m (clearBeacon s)).setSubkeys T := by
  rw [decodeMask_eq, decodeMask_eq]
  generalize votedWord m = V
  exact dispatchProto_veil (s := (clearBeacon s).setBcn (stageFour V BeaconRegs.zero)) n hk hT V

/-- BCN_DECODE of a veiled state. -/
theorem bcnDecode_veil : bcnDecode (s.veil st n T) = (bcnDecode s).setSubkeys T := by
  rw [bcnDecode, bcnDecode, veil_inlen]
  by_cases h : s.inlen.toNat ≠ 16
  · rw [if_pos h, if_pos h]
    exact raiseError_veil (s := clearBeacon s) n hk _
  · rw [if_neg h, if_neg h]
    exact decodeMask_veil n hk hT (readMask s)

/-- BCN_SCAN of a veiled state. -/
theorem bcnScan_veil (cid : BitVec 16) : bcnScan cid (s.veil st n T) = (bcnScan cid s).setSubkeys T := by
  rw [bcnScan, bcnScan, veil_inlen, show readIn (s.veil st n T) s.inlen.toNat = readIn s s.inlen.toNat from rfl]
  by_cases h : bufBytes < s.inlen.toNat
  · rw [if_pos h, if_pos h]
    exact raiseError_veil (s := clearBeacon s) n hk _
  · rw [if_neg h, if_neg h]
    cases locate cid (readIn s s.inlen.toNat) with
    | some m => exact decodeMask_veil n hk hT m
    | none => exact raiseDrop_veil (s := clearBeacon s) n hk _

/-- A command of a veiled state does what it does unveiled, but leaves the veiling table in place. -/
theorem exec_veil {i : Instr} {t : State} (hi : i ≠ .rc5SetKey) (h : exec i s = .next t) :
    exec i (s.veil st n T) = .next (t.setSubkeys T) := by
  cases i with
  | rc5SetKey => exact absurd rfl hi
  | rc5Decrypt => cases h; exact congrArg Host.Outcome.next (rc5Block_veil n hk hT rc5Dec)
  | rc5Encrypt => cases h; exact congrArg Host.Outcome.next (rc5Block_veil n hk hT rc5Enc)
  | ctrEncrypt => cases h; exact congrArg Host.Outcome.next (ctrEncrypt_veil n hk Config.E)
  | ctrDecrypt => cases h; exact congrArg Host.Outcome.next (ctrDecrypt_veil n hk Config.E)
  | bcnVote => cases h; exact congrArg Host.Outcome.next (bcnVote_veil n hk)
  | bcnDecode => cases h; exact congrArg Host.Outcome.next (bcnDecode_veil n hk hT)
  | bcnScan => cases h; exact congrArg Host.Outcome.next (bcnScan_veil n hk hT Config.companyId)

end

/-- Settles O23: with the table kept, nothing a command reads is veiled. -/
theorem flagsAreNotInputs : Obligations.FlagsAreNotInputs := by
  intro i s st n hk
  change exec i (s.veil st n s.subkeys) = exec i s
  by_cases hi : i = .rc5SetKey
  · subst hi
    exact congrArg Host.Outcome.next (rc5SetKey_veil n)
  · obtain ⟨t, ht, -⟩ := exec_cases i s
    rw [exec_veil n hk (fun _ => rfl) hi ht, ht, ← (exec_effect ht).subkeys hi, setSubkeys_self]

/-- An instruction fetch has no next state. -/
theorem fetchStop_ne_next (agent : Agent) (off : Nat) (t : State) : fetchStop agent off ≠ .next t := by
  rw [fetchStop]
  split
  · simp
  · split <;> simp

/-- Two next states that differ in the subkey table at most, and not at all once KEYED = 1. -/
def SameButUnkeyedTable (t t' : State) : Prop :=
  t'.setSubkeys t.subkeys = t ∧ (t.status.keyed = true → t' = t)

/-- A state is the same as itself. -/
theorem SameButUnkeyedTable.refl (t : State) : SameButUnkeyedTable t t := ⟨setSubkeys_self t, fun _ => rfl⟩

/-- Replacing the table while KEYED = 0. -/
theorem sameButUnkeyedTable_setSubkeys {t : State} (T : Vector Half 26) (hk : t.status.keyed = false) :
    SameButUnkeyedTable t (t.setSubkeys T) := ⟨rfl, fun h => by simp [hk] at h⟩

section

variable {s t : State} (T : Vector Half 26) (hk : s.status.keyed = false)
include hk

/-- A command without a key does not read the table. -/
theorem exec_unkeyedTable {i : Instr} (h : exec i s = .next t) :
    ∃ t', exec i (s.setSubkeys T) = .next t' ∧ SameButUnkeyedTable t t' := by
  by_cases hi : i = .rc5SetKey
  · subst hi
    cases h
    exact ⟨_, congrArg Host.Outcome.next (rc5SetKey_veil (st := s.status) s.outlen), .refl _⟩
  · exact ⟨_, exec_veil (st := s.status) s.outlen rfl (fun h1 => by simp [hk] at h1) hi h,
      sameButUnkeyedTable_setSubkeys T (((exec_effect h).keyed hi).trans hk)⟩

/-- A word stored to CMD without a key does not read the table. -/
theorem issueCommand_unkeyedTable {w : Word} (h : issueCommand w s = .next t) :
    ∃ t', issueCommand w (s.setSubkeys T) = .next t' ∧ SameButUnkeyedTable t t' := by
  rw [issueCommand] at h ⊢
  cases hd : decode w with
  | ok i =>
    rw [hd] at h
    exact exec_unkeyedTable (s := s.setCmd w) T hk h
  | error e =>
    rw [hd] at h
    cases h
    exact ⟨_, rfl, sameButUnkeyedTable_setSubkeys T hk⟩

/-- A store without a key does not read the table. -/
theorem hostStore_unkeyedTable {off : Nat} {v : Word} (h : hostStore off v s = .next t) :
    ∃ t', hostStore off v (s.setSubkeys T) = .next t' ∧ SameButUnkeyedTable t t' := by
  cases hp : placeAt off with
  | reg r =>
    by_cases hr : r = .cmd
    · subst hr
      rw [hostStore, hp] at h ⊢
      exact issueCommand_unkeyedTable T hk h
    · rw [hostStore_reg hp hr] at h ⊢
      cases h
      obtain ⟨-, hst, -⟩ := writeReg_keeps hr v s
      have hw : writeReg r v (s.setSubkeys T) = (writeReg r v s).setSubkeys T := by cases r <;> rfl
      exact ⟨_, congrArg Host.Outcome.next hw, sameButUnkeyedTable_setSubkeys T (by rw [hst, hk])⟩
  | inBuf _ | reserved | outBuf _ =>
    rw [hostStore, hp] at h ⊢
    cases h
    exact ⟨_, rfl, sameButUnkeyedTable_setSubkeys T hk⟩
  | outside =>
    rw [hostStore, hp] at h
    cases h

/-- A load does not read the table. -/
theorem hostLoad_unkeyedTable {off : Nat} (h : hostLoad off s = .next t) :
    ∃ t', hostLoad off (s.setSubkeys T) = .next t' ∧ SameButUnkeyedTable t t' := by
  have hw : windowWord (s.setSubkeys T) off = windowWord s off :=
    windowWord_congr off (fun r => by cases r <;> rfl) rfl rfl
  rw [hostLoad] at h ⊢
  split at h
  · cases h
  · rename_i hp
    cases h
    rw [if_neg hp, hw]
    exact ⟨_, rfl, sameButUnkeyedTable_setSubkeys T hk⟩

/-- No access without a key reads the table. -/
theorem performAccess_unkeyedTable {a : HostAccess} (h : performAccess a s = .next t) :
    ∃ t', performAccess a (s.setSubkeys T) = .next t' ∧ SameButUnkeyedTable t t' := by
  cases a with
  | reset => cases h; exact ⟨_, rfl, .refl _⟩
  | fetch agent off => exact absurd h (fetchStop_ne_next agent off t)
  | store agent size off v =>
    rw [performAccess] at h ⊢
    cases hs : accessStop agent size off with
    | some o => rw [hs] at h; exact absurd h (accessStop_stops hs)
    | none => rw [hs] at h; exact hostStore_unkeyedTable T hk h
  | load agent size off =>
    rw [performAccess] at h ⊢
    cases hs : accessStop agent size off with
    | some o => rw [hs] at h; exact absurd h (accessStop_stops hs)
    | none => rw [hs] at h; exact hostLoad_unkeyedTable T hk h

end

/-- Settles O26: no access without a key reads the table. -/
theorem unkeyedTableIsInvisible : Obligations.UnkeyedTableIsInvisible := by
  intro s t T hk h
  change ∃ t', step (s.setSubkeys T) = .next t' ∧ SameButUnkeyedTable t t'
  rcases step_cases h with ⟨hp, rfl⟩ | ⟨a, rest, hp, ha⟩
  · exact ⟨t.setSubkeys T, step_idle hp, sameButUnkeyedTable_setSubkeys T hk⟩
  · rw [step_pending (s := s.setSubkeys T) hp]
    exact performAccess_unkeyedTable (s := s.setPending rest) T hk ha

end Sys2Proof.Machine

/-! PROOF. What one access does to the queue, and the accesses that have no step (20_memory.md R60 to R73,
60_exceptions.md R290). -/

namespace Sys2Proof.Machine

open Sys2Proof

/-- A step on an access the spec gives a meaning does what the access does with nothing waiting, and leaves the rest
waiting. -/
theorem step_wf {s : State} {a : HostAccess} {rest : List HostAccess} (hp : s.pending = a :: rest)
    (hw : a.wf = true) :
    ∃ u : State, performAccess a (s.setPending []) = .next (u.setPending []) ∧ step s = .next (u.setPending rest) := by
  obtain ⟨u, hu, halone⟩ := performAccess_setPending a s [] hw
  obtain ⟨u', hu', hqueue⟩ := performAccess_setPending a s rest hw
  cases hu.symm.trans hu'
  exact ⟨u, halone, (step_pending hp).trans hqueue⟩

/-- Settles O10: the step of an access with a meaning has a next state. -/
theorem wellFormedAccessCompletes : Obligations.WellFormedAccessCompletes := by
  intro s a rest hp hw
  obtain ⟨u, -, hstep⟩ := step_wf hp hw
  exact ⟨u.setPending rest, hstep, rfl⟩

/-- Running the queue by steps is performing it in one go, outcome for outcome. -/
theorem coreRun_pending (ops : List HostAccess) (s : State) (hp : s.pending = ops) (hw : ∀ a ∈ ops, a.wf = true) :
    Host.Core.run core ops.length s = runAccesses ops (s.setPending []) := by
  induction ops generalizing s with
  | nil =>
    have hs : s.setPending [] = s := by rw [← hp]; rfl
    rw [hs]
    rfl
  | cons a rest ih =>
    obtain ⟨hwa, hwr⟩ := List.forall_mem_cons.mp hw
    obtain ⟨u, ha, hstep⟩ := step_wf hp hwa
    have hgo : runAccesses (a :: rest) (s.setPending []) = runAccesses rest (u.setPending []) := by
      rw [runAccesses, ha]
    exact (coreRun_next core _ s _ hstep).trans ((ih (u.setPending rest) rfl hwr).trans hgo.symm)

/-- Settles O20: the two runs have the same outcome. -/
theorem stepsPerformWaitingAccessesInOrder : Obligations.StepsPerformWaitingAccessesInOrder := by
  intro ops s t hp hw
  rw [coreRun_pending ops s hp hw]
  rfl

/-- A step whose next access is a data access that is stopped. -/
theorem step_stopped {s : State} {agent : Agent} {size off : Nat} {v : Word} {rest : List HostAccess}
    {o : Host.Outcome State Fault Refusal}
    (hp : s.pending = .store agent size off v :: rest ∨ s.pending = .load agent size off :: rest)
    (ho : accessStop agent size off = some o) : step s = o := by
  rcases hp with hp | hp <;> rw [step_pending hp, performAccess, ho, Option.getD_some]

/-- A step whose next access is an instruction fetch. -/
theorem step_fetch {s : State} {agent : Agent} {off : Nat} {rest : List HostAccess}
    (hp : s.pending = .fetch agent off :: rest) : step s = fetchStop agent off := by
  rw [step_pending hp, performAccess]

/-- A host access to the window of another width than 32 bits is refused. -/
theorem accessStop_size {size off : Nat} (h : off < 0x4000) (hsize : size ≠ 4) :
    accessStop .host size off = some (.refused .accessSize) := by
  rw [accessStop, if_neg (not_not.mpr rfl), if_neg (Nat.not_le.mpr h), if_pos hsize]

/-- A 32-bit host access to the window that is not aligned is refused. -/
theorem accessStop_misaligned {off : Nat} (h : off < 0x4000) (h4 : off % 4 ≠ 0) :
    accessStop .host 4 off = some (.refused .misaligned) := by
  rw [accessStop, if_neg (not_not.mpr rfl), if_neg (Nat.not_le.mpr h), if_neg (not_not.mpr rfl), if_pos h4]

/-- A second agent's access is refused. -/
theorem accessStop_other (size off : Nat) : accessStop .other size off = some (.refused .secondAgent) := rfl

/-- A host access outside the window faults. -/
theorem accessStop_outside (size : Nat) {off : Nat} (h : 0x4000 ≤ off) :
    accessStop .host size off = some (.fault .outsideWindow) := by
  rw [accessStop, if_neg (not_not.mpr rfl), if_pos h]

/-- Settles O11: the size is checked, then the alignment. -/
theorem subwordAndMisalignedAccessesRefused : Obligations.SubwordAndMisalignedAccessesRefused := by
  intro s size off v rest h hp
  refine ⟨fun hsize => step_stopped hp (accessStop_size h hsize), fun hsize h4 => ?_⟩
  subst hsize
  exact step_stopped hp (accessStop_misaligned h h4)

/-- A second agent's fetch is refused. -/
theorem fetchStop_other (off : Nat) : fetchStop .other off = .refused .secondAgent := rfl

/-- A host fetch from outside the window faults. -/
theorem fetchStop_outside {off : Nat} (h : 0x4000 ≤ off) : fetchStop .host off = .fault .outsideWindow := by
  rw [fetchStop, if_neg (not_not.mpr rfl), if_pos h]

/-- A host fetch from the window is refused. -/
theorem fetchStop_window {off : Nat} (h : off < 0x4000) : fetchStop .host off = .refused .executeFromWindow := by
  rw [fetchStop, if_neg (not_not.mpr rfl), if_neg (Nat.not_le.mpr h)]

/-- Settles O12: a data access by `accessStop`, a fetch by `fetchStop`. -/
theorem foreignAccessesStopByName : Obligations.ForeignAccessesStopByName := by
  intro s size off v rest
  refine ⟨fun hp => ?_, fun h hp => ?_, fun h hp => (step_fetch hp).trans (fetchStop_window h)⟩
  · rcases or_assoc.mpr hp with hdata | hfetch
    · exact step_stopped hdata (accessStop_other size off)
    · exact (step_fetch hfetch).trans (fetchStop_other off)
  · rcases or_assoc.mpr hp with hdata | hfetch
    · exact step_stopped hdata (accessStop_outside size h)
    · exact (step_fetch hfetch).trans (fetchStop_outside h)

end Sys2Proof.Machine

/-! PROOF. A word stored to IN_BUF: its lanes, and its reading back (20_memory.md R63, R65, 10_state.md R46). -/

namespace Sys2Proof.Machine

open Sys2Proof

/-- A stored word's lane `j` stands at byte offset `j`. -/
theorem readByte_writeBufWord_lane (s : State) (a : Nat) (w : Word) {j : Nat} (h : j < 4) :
    readByte (writeBufWord a w s) (a + j) = lane w j := by
  rw [writeBufWord, readByte_memWrite, dif_pos ⟨Nat.le_add_right a j, Nat.add_lt_add_left h a⟩]
  simp only [Nat.add_sub_cancel_left]
  match j with
  | 0 | 1 | 2 | 3 => rfl

/-- Bytes outside a stored word are as before. -/
theorem readByte_writeBufWord_other (s : State) {a x : Nat} (w : Word) (h : x < a ∨ a + 4 ≤ x) :
    readByte (writeBufWord a w s) x = readByte s x := by
  rw [writeBufWord, readByte_memWrite, dif_neg (by simp only [List.length_cons, List.length_nil]; omega)]

/-- A stored word reads back. -/
theorem readBufWord_writeBufWord (s : State) (a : Nat) (w : Word) : readBufWord (writeBufWord a w s) a = w := by
  have hlane {j : Nat} (h : j < 4) := readByte_writeBufWord_lane s a w h
  rw [readBufWord, hlane (j := 1) (by decide), hlane (j := 2) (by decide), hlane (j := 3) (by decide),
    show readByte (writeBufWord a w s) a = lane w 0 from hlane (j := 0) (by decide)]
  exact wordOfLanes_lanes w

/-- A step that stores to IN_BUF. -/
theorem step_store_inBuf {s : State} {off : Nat} {v : Word} {rest : List HostAccess}
    (hp : s.pending = .store .host 4 off v :: rest) (hlo : 0x1000 ≤ off) (hhi : off < 0x2000) (h4 : off % 4 = 0) :
    step s = .next (writeBufWord off v (s.setPending rest)) := by
  rw [step_store hp (by omega) h4, hostStore, placeAt_inBuf hlo hhi]
  simp only [Nat.add_sub_cancel' hlo]

/-- Settles O15: the step writes the word's four lanes and nothing else. -/
theorem storeToInBufPlacesLanes : Obligations.StoreToInBufPlacesLanes := by
  intro s off v rest hp hlo hhi h4
  exact ⟨writeBufWord off v (s.setPending rest), step_store_inBuf hp hlo hhi h4, rfl,
    fun _ hj => readByte_writeBufWord_lane _ off v hj, fun _ ha => readByte_writeBufWord_other _ v ha⟩

/-- Settles O16: the load finds the word the store wrote. -/
theorem bufferWordReadsBack : Obligations.BufferWordReadsBack := by
  intro s off v rest hp hlo hhi h4
  refine ⟨_, _, step_store_inBuf hp hlo hhi h4, step_load rfl (by omega) h4, ?_⟩
  rw [windowWord_buffer _ hlo (Nat.lt_trans hhi (by decide))]
  exact congrArg (s.answers ++ [·]) (readBufWord_writeBufWord (s.setPending rest) off v)

end Sys2Proof.Machine

/-! PROOF. The decoder and the encoder are inverse, and what the step does with the word stored to CMD
(30_encoding.md R80 to R84, 20_memory.md R63). -/

namespace Sys2Proof

open Machine

/-- Every command makes the round trip through its word and bytes. -/
theorem roundTrip : ∀ i : Instr, Laws.RoundTrip.Statement i
  | .rc5SetKey => Laws.RoundTrip.rc5SetKey
  | .rc5Decrypt => Laws.RoundTrip.rc5Decrypt
  | .rc5Encrypt => Laws.RoundTrip.rc5Encrypt
  | .ctrEncrypt => Laws.RoundTrip.ctrEncrypt
  | .ctrDecrypt => Laws.RoundTrip.ctrDecrypt
  | .bcnVote => Laws.RoundTrip.bcnVote
  | .bcnDecode => Laws.RoundTrip.bcnDecode
  | .bcnScan => Laws.RoundTrip.bcnScan

theorem legalWord_encode (i : Instr) : legalWord (encode i) = true := by
  obtain ⟨hlegal, -, -, -⟩ := roundTrip i
  exact hlegal

theorem decode_encode (i : Instr) : decode (encode i) = .ok i := by
  obtain ⟨-, hdecode, -, -⟩ := roundTrip i
  exact hdecode

/-- Each row of the opcode map holds the word the encoder gives for its command. -/
theorem opcodeTable_value : ∀ r ∈ opcodeTable, r.value = encode r.instr := by decide

/-- A word decodes to a command exactly when it is the word the encoder gives for it (30_encoding.md R81). -/
theorem decode_eq_ok_iff {w : Word} {i : Instr} : decode w = .ok i ↔ w = encode i := by
  refine ⟨fun h => ?_, fun h => h ▸ decode_encode i⟩
  rcases decode_cases w with ⟨r, hr, rfl, hd⟩ | ⟨-, hd⟩
  · cases hd.symm.trans h
    exact opcodeTable_value r hr
  · cases hd.symm.trans h

/-- A word laid out in lanes decodes as the word does, with the bytes behind it left over. -/
theorem decodeBytes_lanes (w : Word) (rest : List Byte) :
    decodeBytes (lanesOfWord w ++ rest) = (decode w).map (·, rest) := by
  simp only [lanesOfWord, List.cons_append, List.nil_append, decodeBytes, wordOfLanes_lanes]
  cases decode w <;> rfl

/-- Four bytes or more begin with the lanes of a word; fewer are rejected as truncated. -/
theorem lanes_or_truncated (bs : List Byte) :
    (∃ w rest, bs = lanesOfWord w ++ rest) ∨ decodeBytes bs = .error .truncated := by
  match bs with
  | [] | [_] | [_, _] | [_, _, _] => exact .inr rfl
  | b0 :: b1 :: b2 :: b3 :: rest =>
    exact .inl ⟨wordOfLanes b0 b1 b2 b3, rest, by rw [lanesOfWord_wordOfLanes]; rfl⟩

/-- Settles O2: a byte string that decodes begins with the lanes of a word, and `decode_eq_ok_iff` says which. -/
theorem decodeAndEncodeAgree : Obligations.DecodeAndEncodeAgree := by
  intro bs i rest
  constructor
  · intro h
    rcases lanes_or_truncated bs with ⟨w, rest', rfl⟩ | ht
    · rw [decodeBytes_lanes] at h
      cases hd : decode w with
      | error e => rw [hd] at h; cases h
      | ok j =>
        rw [hd] at h
        cases h
        rw [decode_eq_ok_iff.mp hd, encodeBytes]
    · cases ht.symm.trans h
  · rintro rfl
    rw [encodeBytes, decodeBytes_lanes, decode_encode]
    rfl

/-- Settles O1: the map written out pairs every command with the word the encoder gives for it. -/
theorem decodeSelectsTheEqualWord : Obligations.DecodeSelectsTheEqualWord := by
  intro w i
  rw [decode_eq_ok_iff]
  constructor
  · rintro rfl
    cases i <;> decide
  · intro h
    have hmap : ∀ p ∈ ([(0x00000001, .rc5SetKey), (0x00000002, .rc5Decrypt), (0x00000003, .rc5Encrypt),
        (0x00000010, .ctrEncrypt), (0x00000011, .ctrDecrypt), (0x00000020, .bcnVote), (0x00000021, .bcnDecode),
        (0x00000022, .bcnScan)] : List (Word × Instr)), p.1 = encode p.2 := by decide
    exact hmap (w, i) h

/-- Settles O3: the six words are computed, three in the map and one for each reason a word is rejected. -/
theorem writtenOutWordsDecode : Obligations.WrittenOutWordsDecode := by
  unfold Obligations.WrittenOutWordsDecode
  decide

/-- A word is legal when RSVD is zero and OPC is assigned (30_encoding.md R83). -/
theorem legalWord_iff (w : Word) :
    legalWord w = true ↔ w.extractLsb' 8 24 = 0 ∧ w.extractLsb' 0 8 ∈ assignedOpcodes := by
  rw [legalWord, Bool.and_eq_true, rsvdZero, beq_iff_eq, opcAssigned, List.contains_iff_mem]

/-- Only legal words decode (30_encoding.md R83). -/
theorem legalWord_of_decode {w : Word} {i : Instr} (h : decode w = .ok i) : legalWord w = true :=
  decode_eq_ok_iff.mp h ▸ legalWord_encode i

/-- Settles O4: an illegal word does not decode, so issuing it raises IllegalCommand. -/
theorem illegalWordRaisesIllegalCommand : Obligations.IllegalWordRaisesIllegalCommand := by
  refine ⟨by decide, fun s w rest hp hw => ?_⟩
  rw [step_issue hp]
  rcases issueCommand_cases w (s.setPending rest) with ⟨i, hd, -⟩ | ⟨-, hi⟩
  · obtain ⟨hrsvd, hopc⟩ := (legalWord_iff w).mp (legalWord_of_decode hd)
    exact (hw.elim (· hrsvd) (· hopc)).elim
  · exact hi

/-- Settles O5: the step issues the word, and issuing a decoded word runs its command. -/
theorem stepRunsTheDecodedCommand : Obligations.StepRunsTheDecodedCommand := by
  intro s w i rest hp hd
  rw [step_issue hp, issueCommand, hd]
  rfl

end Sys2Proof

/-! PROOF. The rotations, the key schedule and the rounds of the cipher, and what its three commands do
(40_lightweight_cipher.md R100 to R107). -/

namespace Sys2Proof.Machine

open Sys2Proof

/-- A left rotation moves each bit up by the amount, modulo 16. -/
theorem getLsbD_rotl16 (x s : Half) {k : Nat} (hk : k < 16) :
    (rotl16 x s).getLsbD ((k + s.toNat) % 16) = x.getLsbD k := by
  have hs : s.toNat % 16 < 16 := Nat.mod_lt _ (by decide)
  rw [rotl16, BitVec.getLsbD_rotateLeft, Nat.mod_eq_of_lt hs]
  by_cases hwrap : k + s.toNat % 16 < 16
  · have hpos : (k + s.toNat) % 16 = k + s.toNat % 16 := by omega
    simp [hpos, hwrap]
  · have hpos : (k + s.toNat) % 16 + 16 = k + s.toNat % 16 := by omega
    have hlow : (k + s.toNat) % 16 < s.toNat % 16 := by omega
    rw [decide_eq_true hlow, cond_true]
    congr 1
    omega

/-- A right rotation moves each bit down by the amount, modulo 16: the left rotation back moves it up. -/
theorem getLsbD_rotr16 (x s : Half) {k : Nat} (hk : k < 16) :
    (rotr16 x s).getLsbD k = x.getLsbD ((k + s.toNat) % 16) := by
  rw [← getLsbD_rotl16 (rotr16 x s) s hk, rotl16_rotr16]

/-- Amounts that agree in the low 4 bits rotate alike (40 R100). -/
theorem rotations_congr (x : Half) {s s' : Half} (h : s.extractLsb' 0 4 = s'.extractLsb' 0 4) :
    rotl16 x s = rotl16 x s' ∧ rotr16 x s = rotr16 x s' := by
  have hmod : s.toNat % 16 = s'.toNat % 16 := by
    simpa [BitVec.extractLsb'_toNat] using congrArg BitVec.toNat h
  simp only [rotl16, rotr16, hmod, and_self]

/-- Rotation by 0 leaves the word. -/
theorem rotations_zero (x : Half) : rotl16 x 0 = x ∧ rotr16 x 0 = x := by
  have hleft : rotl16 x 0 = x := by
    refine BitVec.eq_of_getLsbD_eq fun k hk => ?_
    simpa [Nat.mod_eq_of_lt hk] using getLsbD_rotl16 x 0 hk
  exact ⟨hleft, by simpa only [hleft] using rotr16_rotl16 x 0⟩

/-- Settles O27: the bits of the two rotations, and the amount read modulo 16. -/
theorem rotationsUseTheLowFourBits : Obligations.RotationsUseTheLowFourBits := by
  intro x s s'
  refine ⟨fun k hk => ⟨getLsbD_rotl16 x s hk, getLsbD_rotr16 x s hk⟩, rotations_congr x, fun h => ?_,
    rotr16_rotl16 x s, rotl16_rotr16 x s⟩
  obtain ⟨hl, hr⟩ := rotations_congr x (s' := 0) h
  obtain ⟨hl0, hr0⟩ := rotations_zero x
  exact ⟨hl.trans hl0, hr.trans hr0⟩

/-- The start table counts up from P16 in steps of Q16 (40 R102). -/
theorem magicSubkey_toNat (i : Nat) : (magicSubkey i).toNat = (0xB7E1 + i * 0x9E37) % 2 ^ 16 := by
  induction i with
  | zero => rfl
  | succ i ih =>
    rw [magicSubkey, BitVec.toNat_add, ih, show magicQ.toNat = 0x9E37 from rfl]
    omega

/-- A key word has its first byte in the low half (40 R102). -/
theorem keyWords_toNat (K : Bytes16) (i : Fin 8) :
    ((keyWords K)[i]).toNat = (K[2 * i.val]).toNat + 256 * (K[2 * i.val + 1]).toNat := by
  have hword : (keyWords K)[i] = K[2 * i.val + 1] ++ K[2 * i.val] := by simp [keyWords]
  rw [hword, toNat_append_eq_add]
  omega

/-- The mixing indices count the turns modulo 26 and modulo 8 (40 R102). -/
theorem mixTurns_indices (K : Bytes16) (n : Nat) :
    (mixTurns n (mixStart K)).i.val = n % 26 ∧ (mixTurns n (mixStart K)).j.val = n % 8 := by
  induction n with
  | zero => exact ⟨rfl, rfl⟩
  | succ n ih =>
    obtain ⟨hi, hj⟩ := ih
    rw [mixTurns_succ]
    constructor
    · rw [show (mixStep _).i = _ + 1 from rfl, Fin.val_add, hi, Fin.val_one, Nat.mod_add_mod]
    · rw [show (mixStep _).j = _ + 1 from rfl, Fin.val_add, hj, Fin.val_one, Nat.mod_add_mod]

/-- Settles O28: the start of the loop, its indices, and what a turn writes. -/
theorem keyScheduleMixesSeventyEightTurns : Obligations.KeyScheduleMixesSeventyEightTurns := by
  refine ⟨fun K => ⟨fun i => ?_, keyWords_toNat K, rfl, rfl, fun n => mixTurns_succ n _, mixTurns_indices K, rfl⟩,
    fun m => ⟨rfl, rfl, ?_, ?_, fun k hk => ?_, fun k hk => ?_⟩⟩
  · rw [← magicSubkey_toNat]
    simp [mixStart]
  · exact Vector.getElem_set_self m.i.isLt
  · exact Vector.getElem_set_self m.j.isLt
  · exact Vector.getElem_set_ne m.i.isLt k.isLt (Fin.val_ne_of_ne hk.symm)
  · exact Vector.getElem_set_ne m.j.isLt k.isLt (Fin.val_ne_of_ne hk.symm)

/-- Inside the table `subkey` is the table's entry. -/
theorem subkey_val (S : Vector Half 26) (k : Fin 26) : subkey S k.val = S[k] := by
  simp [subkey, Vector.getD]

/-- A keyed block command as one update (40 R104, R106). -/
theorem rc5Block_keyed_eq (f : Vector Half 26 → Half → Half → Half × Half) {s : State} (h : s.status.keyed = true) :
    rc5Block f s = (s.setRc5Out (blockWord (f s.subkeys (lowHalf s.rc5In) (highHalf s.rc5In)))).setResult
      (okStatus true false false) 0 := by
  rw [rc5Block_keyed f h, complete, completeStatus, setRc5Out_status, h]
  rfl

/-- Settles O30: the rounds are defined so, and `rc5Block_keyed_eq` gives the two commands. -/
theorem rc5BlockCommandsTransformRc5In : Obligations.Rc5BlockCommandsTransformRc5In := by
  refine ⟨subkey_val, fun S a b => ?_, fun s hk => ?_⟩
  · exact ⟨rfl, rfl, fun _ => rfl, fun _ => ⟨_, _, rfl, rfl, rfl⟩, ⟨_, _, rfl, rfl⟩, rfl, fun _ => rfl,
      fun _ => ⟨_, _, rfl, rfl, rfl⟩⟩
  · exact ⟨congrArg Host.Outcome.next (rc5Block_keyed_eq rc5Dec hk),
      congrArg Host.Outcome.next (rc5Block_keyed_eq rc5Enc hk)⟩

/-- Settles O32: whitening cancels, and the rounds undo each other. -/
theorem cipherRoundTrips : Obligations.CipherRoundTrips := by
  intro S a b
  constructor
  · simp [rc5Dec, rc5Enc, rc5DecRounds_encRounds]
  · simp [rc5Dec, rc5Enc, rc5EncRounds_decRounds]

/-- Byte `4 * r + j` of the key is lane `j` of KEY(r) (10_state.md R32). -/
theorem keyBytes_lane (s : State) {k r j : Nat} (hk : k = 4 * r + j) (hr : r < 4) (hj : j < 4) :
    (keyBytes s)[k] = lane (keyReg s r) j := by
  have hdiv : k / 4 = r := by omega
  have hmod : k % 4 = j := by omega
  simp only [keyBytes, Vector.getElem_ofFn, hdiv, hmod]

/-- Settles O29: the lanes of the four key registers, and RC5_SETKEY as one update. -/
theorem setkeyInstallsTheSchedule : Obligations.SetkeyInstallsTheSchedule := by
  refine ⟨fun s j => ?_, fun s => ?_⟩
  · have hlane {k r : Nat} (hk : k = 4 * r + j) (hr : r < 4) := keyBytes_lane s hk hr j.isLt
    exact ⟨hlane (r := 0) (by omega) (by decide), hlane (r := 1) rfl (by decide), hlane (r := 2) rfl (by decide),
      hlane (r := 3) rfl (by decide)⟩
  · rw [exec, execRc5SetKey, rc5SetKey_eq]
    generalize rc5KeyExpand (keyBytes s) = T
    rfl

/-- Settles O31: without a key a block command is the error NotKeyed. -/
theorem rc5BlockCommandsNeedAKey : Obligations.Rc5BlockCommandsNeedAKey := by
  refine ⟨rfl, fun s hk => ?_⟩
  have herr (f : Vector Half 26 → Half → Half → Half × Half) :
      rc5Block f s = s.setResult (errStatus false .notKeyed) 0 := by
    rw [rc5Block_unkeyed f hk, raiseError, errorStatus, hk]
    rfl
  exact ⟨congrArg Host.Outcome.next (herr rc5Dec), congrArg Host.Outcome.next (herr rc5Enc)⟩

end Sys2Proof.Machine

/-! PROOF. The counter mode engine: counter block, keystream, the outcomes of its two commands, and the two laws
(41_ctr_engine.md R140 to R153). -/

namespace Sys2Proof.Machine

open Sys2Proof

/-- Byte `4 * r + j` of the seed is lane `j` of IVSEED(r) (10_state.md R33). -/
theorem seedBytes_lane (s : State) {k r j : Nat} (hk : k = 4 * r + j) (hr : r < 2) (hj : j < 4) :
    (seedBytes s)[k] = lane (seedReg s r) j := by
  have hdiv : k / 4 = r := by omega
  have hmod : k % 4 = j := by omega
  simp only [seedBytes, Vector.getElem_ofFn, hdiv, hmod]

/-- The bytes of a counter block in order (41 R140). -/
theorem ivBlock_toList (N : Vector Byte 8) (i : Nat) :
    (ivBlock N i).toList = N.toList ++ [0, 0, 0, 0, 0, 0, 0] ++ [BitVec.ofNat 8 i] := by
  simp only [ivBlock, Vector.toList_push, Vector.toList_append, Vector.toList_replicate]
  rfl

/-- Settles O33: the lanes of the seed registers and of TAG, and the counter block byte by byte. -/
theorem counterBlockLayout : Obligations.CounterBlockLayout := by
  refine ⟨fun s j => ⟨?_, ?_, rfl⟩, fun N i hi => ⟨ivBlock_toList N i, ?_⟩⟩
  · exact seedBytes_lane s (r := 0) (by omega) (by decide) j.isLt
  · exact seedBytes_lane s (r := 1) rfl (by decide) j.isLt
  · exact (BitVec.toNat_ofNat i 8).trans (Nat.mod_eq_of_lt hi)

/-- Byte `k` of block `i` of the keystream (41 R141). -/
theorem keystream_getElem?_block (E : Bytes16 → Bytes16 → Bytes16) (K : Bytes16) (N : Vector Byte 8) {n i k : Nat}
    (hi : i < n) (hk : k < 16) : (keystream E K N n)[16 * i + k]? = (E K (ivBlock N i)).toList[k]? := by
  have hdiv : (16 * i + k) / 16 = i := by omega
  have hmod : (16 * i + k) % 16 = k := by omega
  have hlt : 16 * i + k < (keystream E K N n).length := by rw [keystream_length]; omega
  rw [List.getElem?_eq_getElem hlt, keystream_getElem, hdiv, hmod, List.getD_eq_getElem _ _ (by simpa using hk),
    List.getElem?_eq_getElem]

/-- The XOR of two strings at a place both have. -/
theorem xorBytes_getElem?_of_some {as bs : List Byte} {k : Nat} {x y : Byte} (ha : as[k]? = some x)
    (hb : bs[k]? = some y) : (xorBytes as bs)[k]? = some (x ^^^ y) := by
  obtain ⟨hka, rfl⟩ := List.getElem?_eq_some_iff.mp ha
  obtain ⟨hkb, rfl⟩ := List.getElem?_eq_some_iff.mp hb
  rw [List.getElem?_eq_getElem (by rw [xorBytes_length]; omega), xorBytes_getElem]

/-- Settles O34: the keystream's length, its blocks, and the XOR. -/
theorem keystreamIsBlockAfterBlock : Obligations.KeystreamIsBlockAfterBlock := fun E K N n =>
  ⟨keystream_length E K N n, fun _ _ => keystream_getElem?_block E K N, fun _ _ _ _ _ => xorBytes_getElem?_of_some⟩

/-- An error as one update of STATUS and OUTLEN (60_exceptions.md R272). -/
theorem raiseError_eq (e : ErrCode) (s : State) :
    raiseError e s = { s with status := errStatus s.status.keyed e, outlen := 0 } := rfl

/-- A length the block does not accept fails the model's check. -/
theorem blockLength_eq_false {L : Nat} (h : ¬BlockMultiple L) : blockLength L = false :=
  Bool.eq_false_iff.mpr fun hL => h ((blockLength_iff L).mp hL)

/-- A success that writes OUT_BUF: the state it leaves, register by register and byte by byte (60_exceptions.md
R274). -/
theorem complete_writeOut (s : State) {bs : List Byte} {n : Nat} (trunc : Bool) {byte : Nat → Byte}
    (hlen : bs.length = n) (hn : n ≤ 4096) (hbyte : ∀ k (h : k < bs.length), bs[k] = byte k) :
    let t := complete n trunc false (writeOut bs s)
    t = { s with mem := t.mem, status := okStatus s.status.keyed trunc false, outlen := BitVec.ofNat 13 n } ∧
      t.outlen.toNat = n ∧ (∀ k, k < n → readByte t (0x2000 + k) = byte k) ∧
      (∀ a, a < 0x2000 ∨ 0x2000 + n ≤ a → readByte t a = readByte s a) := by
  subst hlen
  have hread (a : Nat) := readByte_memWrite s 0x2000 bs a
  refine ⟨rfl, (BitVec.toNat_ofNat _ 13).trans (Nat.mod_eq_of_lt (by omega)), fun k hk => ?_, fun a ha => ?_⟩
  · refine (hread (0x2000 + k)).trans ?_
    rw [dif_pos (by omega), ← hbyte k hk]
    simp only [Nat.add_sub_cancel_left]
  · exact (hread a).trans (dif_neg (by omega))

/-- Settles O35: `ctrEncrypt_ok`, with the ciphertext's bytes from `ctrCipher_state`. -/
theorem ctrEncryptWritesTheCiphertext : Obligations.CtrEncryptWritesTheCiphertext := by
  rintro s L p rfl rfl hL hp
  have hlen := ctrCipher_length Config.E (keyBytes s) (seedBytes s) (tagBytes s) (readIn s s.inlen.toNat) _
    (tagBytes_length s) hL (by simpa [readIn] using hp)
  refine ⟨ctrEncrypt Config.E s, rfl, ?_⟩
  rw [ctrEncrypt_ok Config.E ((blockLength_iff _).mpr hL) hp]
  exact complete_writeOut s false hlen hL.2.2 fun k hk => ctrCipher_state s _ _ k hL (by omega) hk

/-- Settles O36: each bad length fails one of the two checks of CTR_ENCRYPT. -/
theorem ctrEncryptRejectsLengths : Obligations.CtrEncryptRejectsLengths := by
  refine ⟨rfl, fun s h => ?_⟩
  have hbad : blockLength s.outcap.toNat = false ∨ s.outcap.toNat - 4 < s.inlen.toNat := by
    by_cases hL : BlockMultiple s.outcap.toNat
    · obtain ⟨h0, h16, hmax⟩ := hL
      exact .inr (by omega)
    · exact .inl (blockLength_eq_false hL)
  rw [exec, execCtrEncrypt, ctrEncrypt_bad Config.E hbad, raiseError_eq]

/-- Settles O37: `ctrDecrypt_ok`, with the plaintext's bytes from `ctrPlain_state`. -/
theorem ctrDecryptWritesThePlaintext : Obligations.CtrDecryptWritesThePlaintext := by
  rintro s c D w rfl rfl hc hD ht rfl
  have hlen := ctrPlain_length Config.E (keyBytes s) (seedBytes s) (readIn s s.inlen.toNat)
    (by simpa [readIn] using hc.2.1)
  rw [readIn, readBytes_length] at hlen
  refine ⟨ctrDecrypt Config.E s, rfl, ?_⟩
  rw [ctrDecrypt_ok Config.E ((blockLength_iff _).mpr hc) hD ((tagMatches_iff s _ hc).mpr ht)]
  refine complete_writeOut s _ ?_ (by omega) fun k hk => ?_
  · rw [List.length_take, List.length_drop, readIn, hlen]
    omega
  · rw [List.length_take] at hk
    rw [List.getElem_take, List.getElem_drop, ctrPlain_state s _ _ hc.2.1 (by omega)]

/-- CTR_DECRYPT with bad lengths (41 R145, R150). -/
theorem exec_ctrDecrypt_invalidLength {s : State} (h : ¬BlockMultiple s.inlen.toNat ∨ 4096 < s.outcap.toNat) :
    exec .ctrDecrypt s = .next { s with status := errStatus s.status.keyed .invalidLength, outlen := 0 } := by
  rw [exec, execCtrDecrypt, ctrDecrypt_bad Config.E (h.imp_left blockLength_eq_false), raiseError_eq]

/-- CTR_DECRYPT with good lengths and a tag that does not match (41 R149). -/
theorem exec_ctrDecrypt_validationFailed {s : State} (hc : BlockMultiple s.inlen.toNat)
    (hD : s.outcap.toNat ≤ 4096) (ht : ¬TagMatches s) :
    exec .ctrDecrypt s = .next { s with status := errStatus s.status.keyed .validationFailed, outlen := 0 } := by
  rw [exec, execCtrDecrypt, ctrDecrypt_mismatch Config.E ((blockLength_iff _).mpr hc) hD
    (mt (tagMatches_iff s _ hc).mp ht), raiseError_eq]

/-- Settles O38: the length checks come first, then the tag check. -/
theorem ctrDecryptRejects : Obligations.CtrDecryptRejects :=
  ⟨rfl, rfl, fun _ => ⟨exec_ctrDecrypt_invalidLength, exec_ctrDecrypt_validationFailed⟩⟩

/-- Equal keys and seeds give equal keystreams. -/
theorem keystreamByte_congr {s u : State} (hK : keyBytes u = keyBytes s) (hN : seedBytes u = seedBytes s) (k : Nat) :
    keystreamByte u k = keystreamByte s k := by
  rw [keystreamByte, hK, hN, keystreamByte]

/-- A frame byte under the keystream decrypts to itself (41 R146). -/
theorem plainByte_eq_frameByte {s u : State} {p k : Nat} (hK : keyBytes u = keyBytes s)
    (hN : seedBytes u = seedBytes s)
    (hC : readByte u (0x1000 + k) = frameByte s p k ^^^ keystreamByte s k) : plainByte u k = frameByte s p k := by
  rw [plainByte, hC, keystreamByte_congr hK hN, xor_cancel_right]

/-- Under one key and seed, a changed ciphertext byte changes the decrypted byte in the same bits (41 R153). -/
theorem plainByte_eq_xor {s u : State} (hK : keyBytes u = keyBytes s) (hN : seedBytes u = seedBytes s) (k : Nat) :
    plainByte u k = plainByte s k ^^^ (readByte u (0x1000 + k) ^^^ readByte s (0x1000 + k)) := by
  rw [plainByte, plainByte, keystreamByte_congr hK hN, BitVec.xor_comm (readByte s _), BitVec.xor_assoc,
    xor_xor_cancel_comm_assoc, BitVec.xor_comm]

/-- The first four bytes of a frame are the tag (41 R142). -/
theorem frameByte_tag (s : State) (p : Nat) {k : Nat} (h : k < 4) : frameByte s p k = lane s.tag k := if_pos h

/-- The payload stands behind the tag (41 R142). -/
theorem frameByte_payload (s : State) {p k : Nat} (h : k < p) : frameByte s p (4 + k) = readByte s (0x1000 + k) := by
  rw [frameByte, if_neg (by omega), if_pos (by omega), Nat.add_sub_cancel_left]

/-- Zeros stand behind the payload (41 R142). -/
theorem frameByte_padding (s : State) {p k : Nat} (h : p ≤ k) : frameByte s p (4 + k) = 0 := by
  rw [frameByte, if_neg (by omega), if_neg (by omega)]

/-- Settles O39: the decrypted bytes are the frame's, so the tag matches and the payload and its padding come out. -/
theorem ctrRoundTrips : Obligations.CtrRoundTrips := by
  intro s t u L p D hL hp hblock hpL henc hK hN hT hc hD hpD hDmax hcopy
  obtain ⟨t', ht', -, -, hcipher, -⟩ := ctrEncryptWritesTheCiphertext s L p hL hp hblock hpL
  cases henc.symm.trans ht'
  have hplain {k : Nat} (hk : k < L) : plainByte u k = frameByte s p k :=
    plainByte_eq_frameByte hK hN ((hcopy k hk).trans (hcipher k hk))
  have ⟨h0, h16, _⟩ := hblock
  have htag : TagMatches u := fun j hj => by rw [hplain (by omega), frameByte_tag s p hj, hT]
  obtain ⟨v, hv, hst, hlen, hout, -⟩ := ctrDecryptWritesThePlaintext u L D _ hc hD hblock hDmax htag rfl
  have hframe {k : Nat} (hk : k < min D (L - 4)) : readByte v (0x2000 + k) = frameByte s p (4 + k) :=
    (hout k hk).trans (hplain (by omega))
  have hstatus := congrArg State.status hst
  refine ⟨v, hv, by rw [hstatus]; rfl, hlen, ?_, fun k hk => ?_, fun k hpk hk => ?_⟩
  · rw [hstatus, okStatus, decide_eq_true_iff]
    omega
  · rw [hframe (by omega), frameByte_payload s hk]
  · rw [hframe hk, frameByte_padding s hpk]

/-- CTR_DECRYPT reports OK only with good lengths and a matching tag. -/
theorem ctrDecrypt_accepts {s t : State} (h : exec .ctrDecrypt s = .next t) (hok : t.status.err = .ok) :
    BlockMultiple s.inlen.toNat ∧ s.outcap.toNat ≤ 4096 ∧ TagMatches s := by
  have not_error {e : ErrCode} (he : e ≠ .ok)
      (hs : exec .ctrDecrypt s = .next { s with status := errStatus s.status.keyed e, outlen := 0 }) : False := by
    cases h.symm.trans hs
    exact he hok
  have hc : BlockMultiple s.inlen.toNat := by
    by_contra hbad
    exact not_error (by decide) (exec_ctrDecrypt_invalidLength (.inl hbad))
  have hD : s.outcap.toNat ≤ 4096 := by
    by_contra hbad
    exact not_error (by decide) (exec_ctrDecrypt_invalidLength (.inr (by omega)))
  refine ⟨hc, hD, ?_⟩
  by_contra hbad
  exact not_error (by decide) (exec_ctrDecrypt_validationFailed hc hD hbad)

/-- Settles O40: the changed tag byte decrypts to something else, so CTR_DECRYPT ends in the tag check. -/
theorem tagTamperingIsRejected : Obligations.TagTamperingIsRejected := by
  intro s t u hs hok hK hN hT hc hD hchanged _
  obtain ⟨hblock, hcap, htag⟩ := ctrDecrypt_accepts hs hok
  have hbits (j : Nat) (hj : j < 4) :
      plainByte u j = lane u.tag j ^^^ (readByte u (0x1000 + j) ^^^ readByte s (0x1000 + j)) := by
    rw [plainByte_eq_xor hK hN, htag j hj, hT]
  have hmiss : ¬TagMatches u := fun hu => by
    obtain ⟨j, hj, hne⟩ := hchanged
    have hself := (hbits j hj).symm.trans (hu j hj)
    exact hne (xor_eq_zero_iff.mp (xor_left_eq_self_iff.mp hself))
  exact ⟨hbits, exec_ctrDecrypt_validationFailed (hc ▸ hblock) (hD ▸ hcap) hmiss⟩

end Sys2Proof.Machine

/-! PROOF. The mask bit by bit as the number X, the windows in it, and what the voter makes of them
(42_beacon_decoder.md R191 to R193, R202, R203). -/

namespace Sys2Proof.Machine

open Sys2Proof

/-- A bit of the low part of a concatenation. -/
theorem getLsbD_append_low {n m i : Nat} (x : BitVec n) (y : BitVec m) (hi : i < m) :
    (x ++ y).getLsbD i = y.getLsbD i := by
  rw [BitVec.getLsbD_append, if_pos hi]

/-- A bit of the high part of a concatenation. -/
theorem getLsbD_append_high {n m : Nat} (x : BitVec n) (y : BitVec m) (i : Nat) :
    (x ++ y).getLsbD (m + i) = x.getLsbD i := by
  rw [BitVec.getLsbD_append, if_neg (by omega), Nat.add_sub_cancel_left]

/-- Bit `8 * q + r` of `BE64` is bit `r` of the byte `q` places before the last (00_scope.md R11). -/
theorem be64_getLsbD (b : Fin 8 → Byte) {q r : Nat} (hq : q < 8) (hr : r < 8) :
    (b 0 ++ b 1 ++ b 2 ++ b 3 ++ b 4 ++ b 5 ++ b 6 ++ b 7 : BitVec 64).getLsbD (8 * q + r) =
      (b ⟨7 - q, by omega⟩).getLsbD r := by
  have peel (p : Nat) : 8 * (p + 1) + r = 8 + (8 * p + r) := by omega
  interval_cases q <;>
    simp only [peel, getLsbD_append_high, Nat.mul_zero, Nat.zero_add, getLsbD_append_low _ _ hr] <;> rfl

/-- Bit `8 * q + r` of X is bit `r` of the byte `q` places before the last (42 R191). -/
theorem maskBit_byte (m : Bytes16) {q r : Nat} (hq : q < 16) (hr : r < 8) :
    maskBit m (8 * q + r) = (m[15 - q]).getLsbD r := by
  have hdiv : (8 * q + r) / 8 = q := by omega
  have hmod : (8 * q + r) % 8 = r := by omega
  rw [maskBit, hdiv, hmod, List.getD_eq_getElem _ _ (by simp; omega), Vector.getElem_toList]

/-- The right half of the mask is X[63:0] (42 R191). -/
theorem be64Right_getLsbD (m : Bytes16) {b : Nat} (hb : b < 64) : (be64Right m).getLsbD b = maskBit m b := by
  have hq : b / 8 < 8 := by omega
  have hr : b % 8 < 8 := by omega
  have hindex : 8 + (7 - b / 8) = 15 - b / 8 := by omega
  have hbit := be64_getLsbD (fun i => m[8 + i.val]) hq hr
  simp only [hindex] at hbit
  rw [← Nat.div_add_mod b 8, maskBit_byte m (by omega) hr, ← hbit]
  rfl

/-- The left half of the mask is X[127:64] (42 R191). -/
theorem be64Left_getLsbD (m : Bytes16) {b : Nat} (hb : b < 64) : (be64Left m).getLsbD b = maskBit m (64 + b) := by
  have hq : b / 8 < 8 := by omega
  have hr : b % 8 < 8 := by omega
  have hsplit : 64 + b = 8 * (8 + b / 8) + b % 8 := by omega
  have hindex : 15 - (8 + b / 8) = 7 - b / 8 := by omega
  have hbit := be64_getLsbD (fun i => m[i.val]) hq hr
  rw [hsplit, maskBit_byte m (by omega) hr]
  simp only [hindex, ← hbit, Nat.div_add_mod]
  rfl

section

variable (m : Bytes16) {k : Nat} (hk : k < 42)
include hk

/-- A = X[127:86] (42 R192). -/
theorem windowA_getLsbD : (windowA m).getLsbD k = maskBit m (86 + k) := by
  rw [windowA, BitVec.getLsbD_extractLsb', decide_eq_true hk, Bool.true_and, be64Left_getLsbD m (by omega),
    ← Nat.add_assoc]

/-- B = X[85:44], which the two halves of the mask share (42 R192). -/
theorem windowB_getLsbD : (windowB m).getLsbD k = maskBit m (44 + k) := by
  rw [windowB]
  by_cases hlow : k < 20
  · rw [getLsbD_append_low _ _ hlow, BitVec.getLsbD_extractLsb', decide_eq_true hlow, Bool.true_and,
      be64Right_getLsbD m (by omega)]
  · obtain ⟨i, rfl⟩ : ∃ i, k = 20 + i := ⟨k - 20, by omega⟩
    have hpos : 64 + (0 + i) = 44 + (20 + i) := by omega
    rw [getLsbD_append_high, BitVec.getLsbD_extractLsb', decide_eq_true (by omega), Bool.true_and,
      be64Left_getLsbD m (by omega), hpos]

/-- C = X[43:2] (42 R192). -/
theorem windowC_getLsbD : (windowC m).getLsbD k = maskBit m (2 + k) := by
  rw [windowC, BitVec.getLsbD_extractLsb', decide_eq_true hk, Bool.true_and, be64Right_getLsbD m (by omega)]

end

/-- The voter's formula holds when at least two of its three bits do. -/
theorem majority_iff (a b c : Bool) :
    (a && b || b && c || a && c) = true ↔ 2 ≤ a.toNat + b.toNat + c.toNat := by
  cases a <;> cases b <;> cases c <;> decide

/-- Settles O42: the windows bit by bit, and the voter's formula as a majority. -/
theorem voteIsTheMajorityOfTheWindows : Obligations.VoteIsTheMajorityOfTheWindows := by
  intro m k hk
  refine ⟨windowA_getLsbD m hk, windowB_getLsbD m hk, windowC_getLsbD m hk, ?_⟩
  rw [votedWord, vote_getLsbD, windowA_getLsbD m hk, windowB_getLsbD m hk, windowC_getLsbD m hk, majority_iff]

/-- The mask of W read as X is `{W, W, W, s}` (42 R203). -/
theorem maskBit_maskOf (W : BitVec 42) (spare : BitVec 2) {b : Nat} (hb : b < 128) :
    maskBit (maskOf W spare) b = (W ++ W ++ W ++ spare : BitVec 128).getLsbD b := by
  have hr : b % 8 < 8 := by omega
  have hbyte : 8 * (15 - (15 - b / 8)) + b % 8 = b := by omega
  conv_lhs => rw [← Nat.div_add_mod b 8]
  rw [maskBit_byte _ (by omega) hr, maskOf, Vector.getElem_ofFn, BitVec.getLsbD_extractLsb', decide_eq_true hr,
    Bool.true_and, hbyte]

section

variable (W : BitVec 42) (spare : BitVec 2) {k : Nat} (hk : k < 42)
include hk

/-- The first copy of W in its mask. -/
theorem maskBit_maskOf_high : maskBit (maskOf W spare) (86 + k) = W.getLsbD k := by
  have hpos : 86 + k = 2 + (42 + (42 + k)) := by omega
  rw [hpos, maskBit_maskOf W spare (by omega), getLsbD_append_high, getLsbD_append_high, getLsbD_append_high]

/-- The second copy of W in its mask. -/
theorem maskBit_maskOf_middle : maskBit (maskOf W spare) (44 + k) = W.getLsbD k := by
  have hpos : 44 + k = 2 + (42 + k) := by omega
  rw [hpos, maskBit_maskOf W spare (by omega), getLsbD_append_high, getLsbD_append_high, getLsbD_append_low _ _ hk]

/-- The third copy of W in its mask. -/
theorem maskBit_maskOf_low : maskBit (maskOf W spare) (2 + k) = W.getLsbD k := by
  rw [maskBit_maskOf W spare (by omega), getLsbD_append_high, getLsbD_append_low _ _ hk]

end

/-- Windows of which at each position at most one is wrong vote to the right word (42 R202). -/
theorem vote_eq_of_two_agree {A B C W : BitVec 42}
    (h : ∀ k, k < 42 →
      (A.getLsbD k = W.getLsbD k ∧ B.getLsbD k = W.getLsbD k) ∨
      (A.getLsbD k = W.getLsbD k ∧ C.getLsbD k = W.getLsbD k) ∨
      (B.getLsbD k = W.getLsbD k ∧ C.getLsbD k = W.getLsbD k)) : vote A B C = W := by
  refine BitVec.eq_of_getLsbD_eq fun k hk => ?_
  rw [vote_getLsbD]
  rcases h k hk with ⟨h1, h2⟩ | ⟨h1, h2⟩ | ⟨h1, h2⟩ <;> rw [h1, h2] <;> cases W.getLsbD k <;> simp

/-- A mask that is the mask of W but for at most one wrong window at each position votes to W (42 R202). -/
theorem votedWord_of_two_agree {m : Bytes16} {W : BitVec 42} {spare : BitVec 2}
    (h : ∀ k, k < 42 →
      (maskBit m (86 + k) = maskBit (maskOf W spare) (86 + k) ∧
        maskBit m (44 + k) = maskBit (maskOf W spare) (44 + k)) ∨
      (maskBit m (86 + k) = maskBit (maskOf W spare) (86 + k) ∧
        maskBit m (2 + k) = maskBit (maskOf W spare) (2 + k)) ∨
      (maskBit m (44 + k) = maskBit (maskOf W spare) (44 + k) ∧
        maskBit m (2 + k) = maskBit (maskOf W spare) (2 + k))) : votedWord m = W := by
  refine vote_eq_of_two_agree fun k hk => ?_
  have hbits := h k hk
  rwa [maskBit_maskOf_high W spare hk, maskBit_maskOf_middle W spare hk, maskBit_maskOf_low W spare hk,
    ← windowA_getLsbD m hk, ← windowB_getLsbD m hk, ← windowC_getLsbD m hk] at hbits

/-- Settles O43: two agreeing windows carry each position. -/
theorem singleErrorsAreCorrected : Obligations.SingleErrorsAreCorrected :=
  ⟨fun _ _ _ _ => vote_eq_of_two_agree, fun _ => vote_eq_of_two_agree fun _ _ => .inl ⟨rfl, rfl⟩,
    fun _ _ _ => votedWord_of_two_agree⟩

/-- The mask of W, without errors, votes to W (42 R203). -/
theorem votedWord_maskOf (W : BitVec 42) (spare : BitVec 2) : votedWord (maskOf W spare) = W :=
  votedWord_of_two_agree (spare := spare) fun _ _ => .inl ⟨rfl, rfl⟩

/-- `{W, W, W, s}` as a number (42 R203). -/
theorem toNat_threeCopies (W : BitVec 42) (spare : BitVec 2) :
    (W ++ W ++ W ++ spare : BitVec 128).toNat =
      (W.toNat <<< 86) ||| (W.toNat <<< 44) ||| (W.toNat <<< 2) ||| spare.toNat := by
  rw [BitVec.toNat_append, BitVec.toNat_append, BitVec.toNat_append]
  simp only [Nat.shiftLeft_or_distrib, ← Nat.shiftLeft_add, Nat.reduceAdd]

end Sys2Proof.Machine

/-! PROOF. The stages of DecodeMask from cleared results, and what BCN_VOTE and BCN_DECODE leave (42_beacon_decoder.md
R181, R182, R184, R185, R194 to R200, R203). -/

namespace Sys2Proof.Machine

open Sys2Proof

section

variable {m : Bytes16} {V : BitVec 42} (s : State) (hV : V = votedWord m)
include hV

/-- Stages 1 to 4 of a decode: the results hold the vote and the protocol field, the rest is 0 (42 R184, R193, R194). -/
theorem decodeMask_clearBeacon {p : BitVec 2} (hp : V.extractLsb' 40 2 = p) :
    decodeMask m (clearBeacon s) = dispatchProto V (s.setBcn { voteOnly V with proto := p }) := by
  rw [decodeMask_eq, ← hV, ← hp]
  rfl

/-- Stage 8 accepts protocol 1 (42 R200). -/
theorem decodeMask_protocolOne (h1 : V.extractLsb' 40 2 = 1) :
    decodeMask m (clearBeacon s) = { s with
      bcn := { voteOnly V with
        proto := 1, token := V.extractLsb' 16 24, resv := V.extractLsb' 0 16, rssiOut := s.brssi }
      status := okStatus s.status.keyed false true, outlen := 0 } := by
  rw [decodeMask_clearBeacon s hV h1, dispatchProto_one _ h1]
  rfl

/-- Stage 4 drops protocols 2 and 3 (42 R194). -/
theorem decodeMask_protocolOther (h2 : 2 ≤ (V.extractLsb' 40 2).toNat) :
    decodeMask m (clearBeacon s) = { s with
      bcn := { voteOnly V with proto := V.extractLsb' 40 2 },
      status := droppedStatus s.status.keyed .protocol, outlen := 0 } := by
  have hne {p : BitVec 2} (hp : p.toNat < 2) : protoField V ≠ p := fun h => by
    rw [← protoField, h] at h2
    omega
  rw [decodeMask_clearBeacon s hV rfl, dispatchProto_other _ (hne (by decide)) (hne (by decide))]
  rfl

variable (h0 : V.extractLsb' 40 2 = 0)
include h0

/-- Stage 5 drops a foreign sphere (42 R195). -/
theorem decodeMask_foreignSphere (hs : V.extractLsb' 32 8 ≠ s.bcfg) :
    decodeMask m (clearBeacon s) = { s with
      bcn := { voteOnly V with sphere := V.extractLsb' 32 8 },
      status := droppedStatus s.status.keyed .sphere, outlen := 0 } := by
  have hend (b : BeaconRegs) := dispatchProto_sphere (s := s.setBcn b) h0 hs
  rw [decodeMask_clearBeacon s hV h0, hend]
  rfl

variable (hs : V.extractLsb' 32 8 = s.bcfg)
include hs

/-- Stage 6 ends without a key (42 R196). -/
theorem decodeMask_unkeyed (hk : s.status.keyed = false) :
    decodeMask m (clearBeacon s) = { s with
      bcn := { voteOnly V with
        sphere := V.extractLsb' 32 8, enc := V.extractLsb' 0 16 ++ V.extractLsb' 16 16 },
      status := errStatus false .notKeyed, outlen := 0 } := by
  have hend (b : BeaconRegs) := dispatchProto_unkeyed (s := s.setBcn b) h0 hs hk
  rw [decodeMask_clearBeacon s hV h0, hend, errorStatus, setBcn_status, hk]
  rfl

variable (hk : s.status.keyed = true) {d : Half × Half}
  (hd : d = rc5Dec s.subkeys (V.extractLsb' 16 16) (V.extractLsb' 0 16))
include hk hd

/-- Stage 6b drops a time word outside the window (42 R197). -/
theorem decodeMask_late (ht : timeValid d.1 s.now = false) :
    decodeMask m (clearBeacon s) = { s with
      bcn := { voteOnly V with
        sphere := V.extractLsb' 32 8, enc := V.extractLsb' 0 16 ++ V.extractLsb' 16 16, dec := d.2 ++ d.1 },
      status := droppedStatus true .time, outlen := 0 } := by
  have hend (b : BeaconRegs) := dispatchProto_late (s := s.setBcn b) h0 hs hk hd ht
  rw [decodeMask_clearBeacon s hV h0, hend, dropStatus, setBcn_status, hk]
  rfl

/-- Stage 7 accepts protocol 0 (42 R198, R199). -/
theorem decodeMask_accept (ht : timeValid d.1 s.now = true) :
    decodeMask m (clearBeacon s) = { s with
      bcn := { voteOnly V with
        proto := 0, sphere := V.extractLsb' 32 8, enc := V.extractLsb' 0 16 ++ V.extractLsb' 16 16,
        dec := d.2 ++ d.1, loc := d.2.extractLsb' 10 6, prof := d.2.extractLsb' 7 3, off := d.2.extractLsb' 3 4,
        flags := d.2.extractLsb' 0 3, rssiOut := adjustedRssi s.brssi (d.2.extractLsb' 3 4) }
      status := okStatus true false true, outlen := 0 } := by
  have hend (b : BeaconRegs) := dispatchProto_accept (s := s.setBcn b) h0 hs hk hd ht
  rw [decodeMask_clearBeacon s hV h0, hend, completeStatus, setBcn_status, hk]
  rfl

end

/-- The length check of BCN_VOTE and BCN_DECODE on the register itself (42 R181, R182). -/
theorem toNat_ne_sixteen {n : BitVec 13} : n.toNat ≠ 16 ↔ n ≠ 16 :=
  not_congr (BitVec.toNat_inj (x := n) (y := 16))

/-- BCN_DECODE of a 16-byte input decodes it (42 R182). -/
theorem exec_bcnDecode_mask {s : State} (h : s.inlen = 16) :
    exec .bcnDecode s = .next (decodeMask (readMask s) (clearBeacon s)) := by
  rw [exec, execBcnDecode, bcnDecode, if_neg (by simp [h])]

/-- BCN_DECODE of any other length (42 R182). -/
theorem exec_bcnDecode_invalidLength {s : State} (h : s.inlen ≠ 16) :
    exec .bcnDecode s = .next { s with
      bcn := BeaconRegs.zero, status := errStatus s.status.keyed .invalidLength, outlen := 0 } := by
  rw [exec, execBcnDecode, bcnDecode, if_pos (toNat_ne_sixteen.mpr h), raiseError_eq]
  rfl

/-- Settles O46: a 16-byte input is decoded, and stage 8 accepts it. -/
theorem bcnDecodeAcceptsProtocolOne : Obligations.BcnDecodeAcceptsProtocolOne := fun s _ hn hV h1 =>
  (exec_bcnDecode_mask hn).trans (congrArg Host.Outcome.next (decodeMask_protocolOne s hV h1))

/-- Settles O47: a 16-byte input is decoded, the time word passes, and stage 7 accepts it. -/
theorem bcnDecodeAcceptsProtocolZero : Obligations.BcnDecodeAcceptsProtocolZero := fun s _ _ hn hV h0 hs hk hd ht =>
  (exec_bcnDecode_mask hn).trans
    (congrArg Host.Outcome.next (decodeMask_accept s hV h0 hs hk hd ((timeValid_iff _ _).mpr ht)))

/-- Settles O48: the length check, then the stage in which each clause ends. -/
theorem bcnDecodeEndsShortInOrder : Obligations.BcnDecodeEndsShortInOrder := by
  refine fun s => ⟨exec_bcnDecode_invalidLength, fun V hn hV => ?_⟩
  rw [exec_bcnDecode_mask hn]
  refine ⟨fun h2 => ?_, fun h0 hs => ?_, fun h0 hs hk => ?_, fun h0 hs hk d hd ht => ?_⟩
  · rw [decodeMask_protocolOther s hV h2]
  · rw [decodeMask_foreignSphere s hV h0 hs]
  · rw [decodeMask_unkeyed s hV h0 hs hk]
  · rw [decodeMask_late s hV h0 hs hk hd (Bool.eq_false_iff.mpr (mt (timeValid_iff _ _).mp ht))]

/-- Settles O45: the length check, then the vote written over cleared results. -/
theorem bcnVoteReportsTheVote : Obligations.BcnVoteReportsTheVote := by
  refine ⟨fun s k => Vector.getElem_ofFn _, fun s => ⟨fun hn => ?_, fun hn => ?_⟩⟩
  · rw [exec, execBcnVote, bcnVote, if_neg (by simp [hn])]
    generalize votedWord (readMask s) = V
    rfl
  · rw [exec, execBcnVote, bcnVote, if_pos (toNat_ne_sixteen.mpr hn), raiseError_eq]
    rfl

/-- Stages 4 to 8 keep the vote of stage 3, wherever they end (42 R193). -/
theorem dispatchProto_vote (V : BitVec 42) (s : State) :
    (dispatchProto V s).bcn.voteLo = s.bcn.voteLo ∧ (dispatchProto V s).bcn.voteHi = s.bcn.voteHi := by
  rw [dispatchProto]
  split
  · exact ⟨rfl, rfl⟩
  split
  · rw [protocol0]
    split
    · rw [decryptRecord]
      split
      · rw [acceptDecoded]
        split <;> exact ⟨rfl, rfl⟩
      · exact ⟨rfl, rfl⟩
    · exact ⟨rfl, rfl⟩
  · exact ⟨rfl, rfl⟩

/-- Settles O44: the mask's number bit by bit, and its vote, which the later stages keep. -/
theorem maskOfThreeCopiesDecodesToItsWord : Obligations.MaskOfThreeCopiesDecodesToItsWord := by
  refine ⟨fun W spare b hb => ?_, fun s W spare hn hm => ?_⟩
  · rw [maskBit_maskOf W spare hb, ← BitVec.testBit_toNat, toNat_threeCopies]
  · have hV : W = votedWord (readMask s) := by rw [hm, votedWord_maskOf]
    refine ⟨_, exec_bcnDecode_mask hn, ?_⟩
    rw [decodeMask_clearBeacon s hV rfl]
    exact dispatchProto_vote W _

end Sys2Proof.Machine

/-! PROOF. The time window and the adjusted rssi as numbers (42_beacon_decoder.md R197, R199). -/

namespace Sys2Proof.Machine

open Sys2Proof

/-- Tnow as a number (42 R197). -/
theorem timeTick_toNat (now : Word) : (timeTick now).toNat = now.toNat / 128 % 65536 := by
  rw [timeTick, BitVec.toNat_setWidth, BitVec.toNat_ushiftRight, Nat.shiftRight_eq_div_pow]

/-- Settles O49: the four cases of `timeValid_iff` as numbers. -/
theorem timeWindowWraps : Obligations.TimeWindowWraps := by
  intro d now
  have htick := timeTick_toNat now
  have hnext : (timeTick now + 1).toNat = (now.toNat / 128 + 1) % 65536 := by
    rw [BitVec.toNat_add, htick]
    exact Nat.mod_add_mod _ _ _
  have hprev : (timeTick now - 1).toNat = (now.toNat / 128 + 65535) % 65536 := by
    rw [BitVec.toNat_sub, htick, Nat.add_comm]
    exact Nat.mod_add_mod _ _ _
  refine ⟨htick, ?_⟩
  rw [timeValid_iff, ← htick, ← hnext, ← hprev, BitVec.toNat_inj, BitVec.toNat_inj, BitVec.toNat_inj]
  exact or_congr_left BitVec.toNat_inj.symm

/-- Settles O50: the clamped sum fits int8. -/
theorem adjustedRssiIsClamped : Obligations.AdjustedRssiIsClamped := by
  intro r off
  rw [adjustedRssi, BitVec.toInt_ofInt_eq_self (by decide) (by omega) (by omega)]
  omega

end Sys2Proof.Machine

/-! PROOF. The locator: its walk, the check of the manufacturer field, and the field behind foreign structures
(42_beacon_decoder.md R186 to R190). -/

namespace Sys2Proof.Machine

open Sys2Proof

/-- One turn of the walk, with the fuel of the whole record again for the next (42 R190). -/
theorem locateFrom_turn (cid : BitVec 16) (R : List Byte) (pos : Nat) :
    locateFrom cid R (R.length + 1) pos =
      if R.length ≤ pos then none
      else if (R.getD pos 0).toNat = 0 then none
      else if R.length < pos + 1 + (R.getD pos 0).toNat then none
      else if R.getD (pos + 1) 0 = 0xFF then
        manufacturerMask cid ((R.drop (pos + 2)).take ((R.getD pos 0).toNat - 1))
      else locateFrom cid R (R.length + 1) (pos + 1 + (R.getD pos 0).toNat) := by
  rw [locateFrom]
  by_cases hend : R.length ≤ pos
  · rw [if_pos hend, if_pos hend]
  · rw [locateFrom_fuel cid R R.length (R.length + 1) (pos + 1 + (R.getD pos 0).toNat) (by omega) (by omega)
      (by omega) (by omega)]

/-- The check rejects a field of another length, company id or type byte (42 R189). -/
theorem manufacturerMask_eq_none {cid : BitVec 16} {f : List Byte}
    (h : f.length ≠ 19 ∨ f.getD 0 0 ≠ cid.extractLsb' 0 8 ∨ f.getD 1 0 ≠ cid.extractLsb' 8 8 ∨
      f.getD 2 0 ≠ 0x01) :
    manufacturerMask cid f = none := by
  rw [manufacturerMask]
  split
  · rfl
  split
  · rfl
  rw [if_pos]
  tauto

/-- The check gives the mask of a field that has all it asks for (42 R189). -/
theorem manufacturerMask_eq_some {cid : BitVec 16} {f : List Byte} (hlen : f.length = 19)
    (hlo : f.getD 0 0 = cid.extractLsb' 0 8) (hhi : f.getD 1 0 = cid.extractLsb' 8 8) (htype : f.getD 2 0 = 0x01) :
    manufacturerMask cid f = some (Vector.ofFn fun k : Fin 16 => f.getD (3 + k.val) 0) := by
  rw [manufacturerMask, if_neg (not_not.mpr hlen), if_neg (not_or.mpr ⟨not_not.mpr hlo, not_not.mpr hhi⟩),
    if_neg (not_not.mpr htype)]

/-- Settles O51: one turn of the walk, and the two outcomes of the check. -/
theorem locateFollowsTheWalk : Obligations.LocateFollowsTheWalk := by
  refine ⟨fun _ _ => rfl, fun cid f => ⟨manufacturerMask_eq_none, fun hlen hlo hhi htype => ?_⟩, ?_⟩
  · exact ⟨_, manufacturerMask_eq_some hlen hlo hhi htype, fun k => Vector.getElem_ofFn _⟩
  · rintro cid R pos len rfl
    exact locateFrom_turn cid R pos

/-- The walk from an offset behind `pre` is the walk over what stands behind `pre`. -/
theorem locateFrom_append (cid : BitVec 16) (pre R : List Byte) (fuel pos : Nat) :
    locateFrom cid (pre ++ R) fuel (pre.length + pos) = locateFrom cid R fuel pos := by
  induction fuel generalizing pos with
  | zero => rfl
  | succ fuel ih =>
    have hget (i : Nat) : (pre ++ R).getD (pre.length + i) 0 = R.getD i 0 := by
      rw [List.getD_append_right _ _ _ _ (by omega), Nat.add_sub_cancel_left]
    have hdrop : (pre ++ R).drop (pre.length + (pos + 2)) = R.drop (pos + 2) :=
      List.drop_length_add_append _
    simp only [locateFrom, List.length_append, Nat.add_assoc, hget, hdrop, Nat.add_le_add_iff_left,
      Nat.add_lt_add_iff_left]
    rw [ih]

section

variable (cid : BitVec 16) (type : Byte) {data : List Byte} (rest : List Byte) (hd : data.length < 255)
include hd

/-- One turn of the walk at a whole structure: its length byte counts the type and the data (42 R187, R190). -/
theorem locate_adStructure :
    locate cid (adStructure type data ++ rest) =
      if type = 0xFF then manufacturerMask cid data
      else locateFrom cid (adStructure type data ++ rest) ((adStructure type data ++ rest).length + 1)
        (data.length + 2) := by
  have hlen : (adStructure type data ++ rest).length = data.length + rest.length + 2 := by simp [adStructure]
  have hfirst : ((adStructure type data ++ rest).getD 0 0).toNat = data.length + 1 :=
    (BitVec.toNat_ofNat _ 8).trans (Nat.mod_eq_of_lt (by omega))
  have htype : (adStructure type data ++ rest).getD (0 + 1) 0 = type := rfl
  have hdata : ((adStructure type data ++ rest).drop (0 + 2)).take (data.length + 1 - 1) = data := List.take_left
  have hnext : 0 + 1 + (data.length + 1) = data.length + 2 := by omega
  rw [locate, locateFrom_turn, hfirst, if_neg (by omega), if_neg (by omega), if_neg (by omega), htype, hdata, hnext]

/-- The walk goes past a foreign structure (42 R190). -/
theorem locate_foreign (ht : type ≠ 0xFF) : locate cid (adStructure type data ++ rest) = locate cid rest := by
  have hlen : (adStructure type data ++ rest).length = data.length + rest.length + 2 := by simp [adStructure]
  rw [locate_adStructure cid type rest hd, if_neg ht, locate]
  exact (locateFrom_append cid (adStructure type data) rest _ 0).trans
    (locateFrom_fuel cid rest _ _ 0 (by omega) (by omega) (by omega) (by omega))

end

/-- The check of the field of a mask gives the mask (42 R189). -/
theorem manufacturerMask_field (cid : BitVec 16) (m : Bytes16) :
    manufacturerMask cid ([cid.extractLsb' 0 8, cid.extractLsb' 8 8, 0x01] ++ m.toList) = some m := by
  rw [manufacturerMask_eq_some (by simp) rfl rfl rfl]
  refine congrArg some (Vector.ext fun k hk => ?_)
  rw [Vector.getElem_ofFn, List.getD_append_right _ _ _ _ (by simp), List.getD_eq_getElem _ _ (by simp; omega)]
  simp

/-- Settles O52: induction on the foreign structures, each passed by one turn of the walk. -/
theorem locateFindsTheFirstManufacturerField : Obligations.LocateFindsTheFirstManufacturerField := by
  intro cid m pre post hpre
  induction hpre with
  | nil => exact (locate_adStructure cid 0xFF post (by simp)).trans ((if_pos rfl).trans (manufacturerMask_field cid m))
  | cons type data rest ht hd _ ih =>
    rw [List.append_assoc, List.append_assoc, locate_foreign cid _ _ hd ht, ← List.append_assoc, ih]

end Sys2Proof.Machine

/-! PROOF. BCN_SCAN, and what no beacon command reads (42_beacon_decoder.md R183, R184, R190). -/

namespace Sys2Proof.Machine

open Sys2Proof

/-- BCN_SCAN of a record whose mask is located decodes it (42 R183). -/
theorem exec_bcnScan_located {s : State} {m : Bytes16} (hn : s.inlen.toNat ≤ 4096)
    (hm : locate Config.companyId (readBytes s 0x1000 s.inlen.toNat) = some m) :
    exec .bcnScan s = .next (decodeMask m (clearBeacon s)) := by
  rw [exec, execBcnScan, bcnScan, if_neg (Nat.not_lt.mpr hn), readIn, hm]

/-- BCN_SCAN of a record in which no mask is located (42 R183, R190). -/
theorem exec_bcnScan_noField {s : State} (hn : s.inlen.toNat ≤ 4096)
    (hm : locate Config.companyId (readBytes s 0x1000 s.inlen.toNat) = none) :
    exec .bcnScan s = .next { s with
      bcn := BeaconRegs.zero, status := droppedStatus s.status.keyed .noField, outlen := 0 } := by
  rw [exec, execBcnScan, bcnScan, if_neg (Nat.not_lt.mpr hn), readIn, hm]
  rfl

/-- Settles O53: both commands run the same stages, which read no more of the two states than agrees. -/
theorem bcnScanDecodesTheLocatedMask : Obligations.BcnScanDecodesTheLocatedMask := by
  rintro s u m hn hm rfl hu hbcfg hnow hbrssi hsubkeys hkeyed
  refine ⟨_, _, exec_bcnScan_located hn hm, exec_bcnDecode_mask hu, ?_⟩
  rw [decodeMask_clearBeacon s rfl rfl, decodeMask_clearBeacon u rfl rfl]
  exact dispatchProto_transfer _ s u _ hbcfg hnow hbrssi hsubkeys hkeyed

/-- Settles O54: a located mask is decoded, and stage 8 or stage 7 accepts it. -/
theorem bcnScanAcceptsLocatedRecords : Obligations.BcnScanAcceptsLocatedRecords := by
  intro s m V d hn hm hV
  rw [exec_bcnScan_located hn hm]
  refine ⟨fun h1 => ?_, fun h0 hs hk hd ht => ?_⟩
  · rw [decodeMask_protocolOne s hV h1]
  · rw [decodeMask_accept s hV h0 hs hk hd ((timeValid_iff _ _).mpr ht)]

/-- Settles O55: the length check, then the locator, which finds nothing in an empty record. -/
theorem bcnScanEndsShort : Obligations.BcnScanEndsShort := by
  refine fun s => ⟨fun hn => ?_, exec_bcnScan_noField, fun hn => ?_⟩
  · rw [exec, execBcnScan, bcnScan, if_pos hn, raiseError_eq]
    rfl
  · have hzero : s.inlen.toNat = 0 := by rw [hn]; rfl
    exact exec_bcnScan_noField (by omega) (by rw [hzero]; rfl)

/-- Clearing the results forgets what they were (42 R184). -/
theorem clearBeacon_setBcn (s : State) (b : BeaconRegs) : clearBeacon (s.setBcn b) = clearBeacon s := rfl

/-- Settles O56: each command reads its operands, INLEN and IN_BUF, and clears the results before it does more. -/
theorem beaconCommandsForgetStaleResults : Obligations.BeaconCommandsForgetStaleResults := by
  intro i s b hi
  change exec i (s.setBcn b) = exec i s
  have hmask : readMask (s.setBcn b) = readMask s := rfl
  have hrecord : readIn (s.setBcn b) s.inlen.toNat = readIn s s.inlen.toNat := rfl
  rcases hi with rfl | rfl | rfl
  · rw [exec, exec, execBcnVote, execBcnVote, bcnVote, bcnVote, setBcn_inlen, clearBeacon_setBcn, hmask]
  · rw [exec, exec, execBcnDecode, execBcnDecode, bcnDecode, bcnDecode, setBcn_inlen, clearBeacon_setBcn, hmask]
  · rw [exec, exec, execBcnScan, execBcnScan, bcnScan, bcnScan, setBcn_inlen, clearBeacon_setBcn, hrecord]

end Sys2Proof.Machine

/-! PROOF. The host's own decisions and byte strings: access policy, wire bytes, seeds, tags and lengths
(45_host_services.md R231 to R246). -/

namespace Sys2Proof.Machine

open Sys2Proof

/-- The levels numeric comparison orders are Admin, Member and Guest (45 R240). -/
theorem ordinaryLevel_iff (l : AccessLevel) :
    ordinaryLevel l = true ↔ l ∈ ([.admin, .member, .guest] : List AccessLevel) := by
  cases l <;> decide

/-- Every ordinary level is more privileged than Setup (45 R231). -/
theorem levelValue_lt_setup {l : AccessLevel} (h : ordinaryLevel l = true) : levelValue l < levelValue .setup := by
  cases l with
  | admin | member | guest => decide
  | setup | notSet | disabled => cases h

/-- An ordinary minimum lets in exactly the ordinary levels at least as privileged: Setup is never one (45 R240). -/
theorem allowAccess_ordinary {h : HostData} {minimum provided : AccessLevel} (he : h.enforcement = true)
    (hm : ordinaryLevel minimum = true) :
    allowAccess h minimum provided = true ↔
      ordinaryLevel provided = true ∧ levelValue provided ≤ levelValue minimum := by
  have hlt := levelValue_lt_setup hm
  have hne : minimum ≠ .setup := by rintro rfl; exact absurd hlt (Nat.lt_irrefl _)
  by_cases hs : provided = .setup
  · subst hs
    simp [allowAccess, he, hne, ordinaryLevel, hlt]
  · cases hp : ordinaryLevel provided <;> simp [allowAccess, he, hm, hne, hs, hp]

/-- Settles O57: the switch, then the three kinds of minimum. -/
theorem accessPolicyDecides : Obligations.AccessPolicyDecides := by
  intro h minimum provided
  rw [← ordinaryLevel_iff, ← ordinaryLevel_iff]
  cases he : h.enforcement with
  | false => simp [allowAccess, he]
  | true =>
    by_cases hs : minimum = .setup
    · subst hs
      simp [allowAccess, he, ordinaryLevel, and_assoc]
    cases hm : ordinaryLevel minimum with
    | false => simp [allowAccess, he, hs, hm]
    | true => simp [allowAccess_ordinary he hm, hs]

/-- The wire byte of a level names it (45 R231). -/
theorem levelOfByte_levelByte (l : AccessLevel) : levelOfByte (levelByte l) = some l := by
  cases l <;> decide

/-- T of session mode is the session nonce without its last byte (45 R237). -/
theorem sessionTag_toList (sn : Vector Byte 5) : (sessionTag sn).toList = sn.toList.take 4 := by
  refine List.ext_getElem (by simp) fun k hk _ => ?_
  simp [sessionTag]

/-- Settles O58: the branch of each mode, as bytes in order. -/
theorem seedsAndTagsFollowTheNonces : Obligations.SeedsAndTagsFollowTheNonces := by
  refine fun h pn => ⟨fun hs => ⟨?_, ?_⟩, fun hs => ⟨?_, ?_⟩⟩
  · rw [ivSeed, if_pos hs, sessionSeed, Vector.toList_append]
  · rw [validationTag, if_pos hs, sessionTag_toList]
  · rw [ivSeed, if_neg (by simp [hs]), noSessionSeed, Vector.toList_push, Vector.toList_append]
  · rw [validationTag, if_neg (by simp [hs])]

/-- `ceil16` gives a multiple of 16 (45 R246). -/
theorem ceil16_mod (x : Nat) : ceil16 x % 16 = 0 := Nat.mul_mod_right 16 _

/-- `ceil16` gives the least such multiple that is not below its argument (45 R246). -/
theorem ceil16_bounds (x : Nat) : x ≤ ceil16 x ∧ ceil16 x < x + 16 := by
  rw [ceil16]
  omega

/-- Settles O59: `ceil16` bounds the encryption length; the decryption length is a subtraction. -/
theorem bufferLengthsFit : Obligations.BufferLengthsFit := by
  refine fun overhead n => ⟨⟨(n + 4 + 15) / 16, rfl, ceil16_bounds (n + 4)⟩, fun h => ?_, fun h => ?_⟩
  · exact if_neg (Nat.not_lt.mpr h)
  · rw [decryptionBufferLength, if_pos h, Nat.sub_add_cancel (Nat.le_of_lt h)]

end Sys2Proof.Machine

/-! PROOF. A run of accesses that puts the operands of a CTR command in place and issues it (30_encoding.md R87, R88,
45_host_services.md R242, R244). -/

namespace Sys2Proof.Machine

open Sys2Proof

/-- A `wr` of a register other than CMD takes the value's defined bits, and the run goes on. -/
theorem runAccesses_wr {r : Reg} (hr : r ≠ .cmd) (v : Word) (rest : List HostAccess) (s : State) :
    runAccesses (wr r v :: rest) s = runAccesses rest (writeReg r v s) := by
  obtain ⟨hle, h4⟩ := regOffset_range r
  rw [runAccesses, wr, performAccess_store _ v s (by omega) h4, hostStore_reg (placeAt_regOffset r) hr]

/-- A mnemonic line that ends a run performs its command. -/
theorem runAccesses_issue (i : Instr) (s : State) : runAccesses [issue i] s = exec i (s.setCmd (encode i)) := by
  obtain ⟨t, ht, -⟩ := exec_cases i (s.setCmd (encode i))
  have hperform : performAccess (issue i) s = exec i (s.setCmd (encode i)) := by
    rw [issue, wr, performAccess_store _ _ s (by decide) (by decide)]
    change issueCommand (encode i) s = _
    rw [issueCommand, decode_encode]
  rw [runAccesses, hperform, ht]
  rfl

/-- `padWord` fills whole words (30 R87). -/
theorem padWord_length (bs : List Byte) : (padWord bs).length % 4 = 0 ∧ (padWord bs).length < bs.length + 4 := by
  rw [padWord, List.length_append, zeroBytes, List.length_replicate]
  omega

/-- `padWord` keeps the bytes it pads. -/
theorem padWord_getElem (bs : List Byte) {k : Nat} (hk : k < bs.length) (h : k < (padWord bs).length) :
    (padWord bs)[k] = bs[k] :=
  List.getElem_append_left hk

/-- A length that a 13-bit register can hold is read back from it (10_state.md R27, R28). -/
theorem toNat_lengthField {n : Nat} (h : n ≤ 4096) : ((BitVec.ofNat 32 n).setWidth 13).toNat = n := by
  simp only [BitVec.toNat_setWidth, BitVec.toNat_ofNat]
  omega

/-- The block's registers and IN_BUF hold the operands of a CTR command: a key, a seed, a tag, the input bytes with
their length, and a capacity. -/
structure CtrOperands (K : Bytes16) (N : Vector Byte 8) (T : Vector Byte 4) (bs : List Byte) (cap : Nat)
    (s : State) : Prop where
  key : keyBytes s = K
  seed : seedBytes s = N
  tag : s.tag = wordOfBytes T[0] T[1] T[2] T[3]
  inlen : s.inlen.toNat = bs.length
  outcap : s.outcap.toNat = cap
  input : ∀ k (h : k < bs.length), readByte s (0x1000 + k) = bs[k]

/-- The accesses of a CTR command: the operands, then the command word (45 R242, R244). -/
def ctrCall (i : Instr) (K : Bytes16) (N : Vector Byte 8) (T : Vector Byte 4) (bs : List Byte) (cap : Nat) :
    List HostAccess :=
  wrkey K ++ wrseed N ++ wrtag T ++ wrbuf 0 (padWord bs) ++
    [wr .inlen (BitVec.ofNat 32 bs.length), wr .outcap (BitVec.ofNat 32 cap), issue i]

/-- The accesses of an encryption are a CTR call (45 R242). -/
theorem encryptAccesses_eq (K : Bytes16) (N : Vector Byte 8) (T : Vector Byte 4) (pt : List Byte) :
    encryptAccesses K N T pt = ctrCall .ctrEncrypt K N T pt (ceil16 (pt.length + 4)) := rfl

/-- The accesses of a decryption are a CTR call (45 R244). -/
theorem decryptAccesses_eq (K : Bytes16) (N : Vector Byte 8) (T : Vector Byte 4) (C : List Byte) (cap : Nat) :
    decryptAccesses K N T C cap = ctrCall .ctrDecrypt K N T C cap := rfl

/-- What `wrkey`, `wrseed` and `wrtag` leave (30 R88). -/
def withKeySeedTag (K : Bytes16) (N : Vector Byte 8) (T : Vector Byte 4) (s : State) : State :=
  { s with
    key0 := wordOfBytes K[0] K[1] K[2] K[3], key1 := wordOfBytes K[4] K[5] K[6] K[7]
    key2 := wordOfBytes K[8] K[9] K[10] K[11], key3 := wordOfBytes K[12] K[13] K[14] K[15]
    ivseed0 := wordOfBytes N[0] N[1] N[2] N[3], ivseed1 := wordOfBytes N[4] N[5] N[6] N[7]
    tag := wordOfBytes T[0] T[1] T[2] T[3] }

/-- The seven stores of `wrkey`, `wrseed` and `wrtag`. -/
theorem runAccesses_keySeedTag (K : Bytes16) (N : Vector Byte 8) (T : Vector Byte 4) (s : State) :
    runAccesses (wrkey K ++ wrseed N ++ wrtag T) s = .next (withKeySeedTag K N T s) := by
  simp only [wrkey, wrseed, wrtag, List.cons_append, List.nil_append]
  rw [runAccesses_wr (by decide), runAccesses_wr (by decide), runAccesses_wr (by decide), runAccesses_wr (by decide),
    runAccesses_wr (by decide), runAccesses_wr (by decide), runAccesses_wr (by decide)]
  simp only [writeReg, runAccesses, withKeySeedTag]

/-- Running a CTR call is performing its command with the operands in place, from any state of the block. -/
theorem runAccesses_ctrCall (i : Instr) (K : Bytes16) (N : Vector Byte 8) (T : Vector Byte 4) {bs : List Byte}
    {cap : Nat} (s : State) (hbs : bs.length ≤ 4096) (hcap : cap ≤ 4096) :
    ∃ u, CtrOperands K N T bs cap u ∧ runAccesses (ctrCall i K N T bs cap) s = exec i u := by
  obtain ⟨hpad4, hpad⟩ := padWord_length bs
  obtain ⟨m, hrun, hread⟩ := runAccesses_wrbuf (padWord bs) 0 (withKeySeedTag K N T s) hpad4 rfl (by omega)
  refine ⟨(writeReg .outcap (BitVec.ofNat 32 cap) (writeReg .inlen (BitVec.ofNat 32 bs.length)
    ((withKeySeedTag K N T s).setMem m))).setCmd (encode i), ?_, ?_⟩
  · exact {
      key := keyBytes_of _ K rfl rfl rfl rfl
      seed := seedBytes_of _ N rfl rfl
      tag := rfl
      inlen := toNat_lengthField hbs
      outcap := toNat_lengthField hcap
      input := fun k hk => by
        have hk' : k < (padWord bs).length := by rw [padWord, List.length_append]; omega
        refine (hread (inBase + k)).trans ?_
        rw [dif_pos (by omega)]
        simp only [Nat.add_zero, Nat.add_sub_cancel_left, padWord_getElem bs hk] }
  · rw [ctrCall, List.append_assoc, runAccesses_append _ _ _ _ (runAccesses_keySeedTag K N T s),
      runAccesses_append _ _ _ _ hrun, runAccesses_wr (by decide), runAccesses_wr (by decide), runAccesses_issue]

/-- A block call whose run ends in OK answers OUT_BUF below OUTLEN (45 R242, R244). -/
theorem callBlock_ok {α : Type} {ops : List HostAccess} (form : List Byte → α) {s t : State}
    (hrun : runAccesses ops s = .next t) (hok : t.status.err = .ok) :
    callBlock ops form s = .next (t, .ok (form (readBytes t 0x2000 t.outlen.toNat))) := by
  have hreply : blockReply t = .ok (readBytes t 0x2000 t.outlen.toNat) := if_pos hok
  rw [callBlock, hrun]
  change Host.Outcome.next (t, (blockReply t).map form) = _
  rw [hreply]
  rfl

end Sys2Proof.Machine

/-! PROOF. What the host encrypts it decrypts to the same bytes over the block (45_host_services.md R232, R242, R244,
R246; 41_ctr_engine.md R152). -/

namespace Sys2Proof.Machine

open Sys2Proof

/-- A plaintext of at most 4092 bytes and its tag are given whole blocks that fit the buffers (45 R246). -/
theorem blockMultiple_ceil16 {p : Nat} (hp : p ≤ 4092) : BlockMultiple (ceil16 (p + 4)) := by
  have hmod := ceil16_mod (p + 4)
  obtain ⟨hlo, hhi⟩ := ceil16_bounds (p + 4)
  exact ⟨by omega, hmod, by omega⟩

/-- CTR_ENCRYPT with the operands of a packet in place fills the calculator's length and reports OK (41 R144). -/
theorem CtrOperands.exec_ctrEncrypt {K : Bytes16} {N : Vector Byte 8} {T : Vector Byte 4} {pt : List Byte} {s : State}
    (hs : CtrOperands K N T pt (ceil16 (pt.length + 4)) s) (hp : pt.length ≤ 4092) :
    ∃ t, exec .ctrEncrypt s = .next t ∧ t.status.err = .ok ∧ t.outlen.toNat = ceil16 (pt.length + 4) := by
  obtain ⟨t, ht, hst, hlen, -, -⟩ := ctrEncryptWritesTheCiphertext s _ _ hs.outcap hs.inlen (blockMultiple_ceil16 hp)
    (Nat.le_sub_of_add_le (ceil16_bounds _).1)
  exact ⟨t, ht, by rw [hst]; rfl, hlen⟩

/-- CTR_DECRYPT with that ciphertext and the same key, seed and tag in place, and a capacity of the plaintext's size,
leaves the plaintext and reports OK (41 R152). -/
theorem CtrOperands.exec_ctrDecrypt {K : Bytes16} {N : Vector Byte 8} {T : Vector Byte 4} {pt : List Byte}
    {s t u : State} (hs : CtrOperands K N T pt (ceil16 (pt.length + 4)) s) (hp : pt.length ≤ 4092)
    (ht : exec .ctrEncrypt s = .next t)
    (hu : CtrOperands K N T (readBytes t 0x2000 (ceil16 (pt.length + 4))) pt.length u) :
    ∃ v, exec .ctrDecrypt u = .next v ∧ v.status.err = .ok ∧ readBytes v 0x2000 v.outlen.toNat = pt := by
  have hpL : pt.length ≤ ceil16 (pt.length + 4) - 4 := Nat.le_sub_of_add_le (ceil16_bounds _).1
  have hcopy : ∀ k, k < ceil16 (pt.length + 4) → readByte u (0x1000 + k) = readByte t (0x2000 + k) := fun k hk => by
    rw [hu.input k (by rwa [readBytes_length]), readBytes_getElem]
  obtain ⟨v, hv, hok, hlen, -, hpay, -⟩ := ctrRoundTrips s t u _ _ _ hs.outcap hs.inlen (blockMultiple_ceil16 hp) hpL
    ht (hu.key.trans hs.key.symm) (hu.seed.trans hs.seed.symm) (hu.tag.trans hs.tag.symm)
    (hu.inlen.trans (readBytes_length _ _ _)) hu.outcap (Nat.le_refl _) (by omega) hcopy
  refine ⟨v, hv, hok, ?_⟩
  rw [hlen, Nat.min_eq_left hpL]
  refine List.ext_getElem (readBytes_length _ _ _) fun k _ hk => ?_
  rw [readBytes_getElem, hpay k hk, hs.input k hk]

/-- The CTR cores of the host over the block: the ciphertext has the calculator's length, and decrypted with the same
key, seed and tag into a destination of the plaintext's size it gives the plaintext. -/
theorem decryptCtr_encryptCtr {α β : Type} (K : Bytes16) (N : Vector Byte 8) (T : Vector Byte 4) {pt : List Byte}
    (wrap : List Byte → α) (unwrap : List Byte → β) (s u : State) (hp : pt.length ≤ 4092) :
    ∃ t C, encryptCtr K N T pt wrap s = .next (t, .ok (wrap C)) ∧ C.length = ceil16 (pt.length + 4) ∧
      ∃ v, decryptCtr K N T C pt.length unwrap u = .next (v, .ok (unwrap pt)) := by
  have hp' : pt.length ≤ 4096 := by omega
  obtain ⟨-, -, hL⟩ := blockMultiple_ceil16 hp
  obtain ⟨s', hs, hencrypt⟩ := runAccesses_ctrCall .ctrEncrypt K N T s hp' hL
  obtain ⟨t, ht, hokT, hlen⟩ := hs.exec_ctrEncrypt hp
  have hClen : (readBytes t 0x2000 (ceil16 (pt.length + 4))).length ≤ 4096 := by rwa [readBytes_length]
  obtain ⟨u', hu, hdecrypt⟩ := runAccesses_ctrCall .ctrDecrypt K N T u hClen hp'
  obtain ⟨v, hv, hokV, hplain⟩ := hs.exec_ctrDecrypt hp ht hu
  refine ⟨t, _, ?_, readBytes_length t 0x2000 _, v, ?_⟩
  · rw [encryptCtr_fits _ _ _ _ _ hp', encryptAccesses_eq, callBlock_ok wrap (hencrypt.trans ht) hokT, hlen]
  · rw [decryptCtr_fits _ _ _ _ _ hClen (hp'.trans (by decide)), decryptAccesses_eq,
      callBlock_ok unwrap (hdecrypt.trans hv) hokV, hplain]

/-- Decrypting a packet reads the nonce and the level back from its first four bytes (45 R232, R244). -/
theorem decryptPacket_eq {getKey : AccessLevel → Bytes16} {h : HostData} {level : AccessLevel} {K : Bytes16}
    (hK : resolveKey getKey h level = .ok K) (pn : Vector Byte 3) (C : List Byte) (cap : Nat) (s : State) :
    decryptPacket getKey h (pn.toList ++ [levelByte level] ++ C) cap s =
      decryptCtr K (ivSeed h pn) (validationTag h) C cap (fun P => (P, levelByte level)) s := by
  have hbyte : resolveByte getKey h (levelByte level) = .ok K := by rw [resolveByte, levelOfByte_levelByte, ← hK]
  obtain ⟨⟨l⟩, hl⟩ := pn
  match l, hl with
  | [n0, n1, n2], _ =>
    change decryptPacket getKey h (n0 :: n1 :: n2 :: levelByte level :: C) cap s = _
    rw [decryptPacket, hbyte]

/-- Settles O60: the packet's header gives seed, tag and key back, and the CTR cores round-trip. -/
theorem packetsRoundTripThroughTheBlock : Obligations.PacketsRoundTripThroughTheBlock := by
  intro getKey h level pn pt K s u hK hp
  obtain ⟨t, C, henc, hlen, v, hdec⟩ := decryptCtr_encryptCtr K (ivSeed h pn) (validationTag h)
    (fun C => pn.toList ++ [levelByte level] ++ C) (fun P => (P, levelByte level)) s u hp
  refine ⟨t, _, by rw [encryptPacket, hK]; exact henc, ?_, v, ?_⟩
  · rw [List.length_append, List.length_append, Vector.length_toList, hlen]
    exact Nat.add_comm _ _
  · rw [decryptPacket_eq hK, hdec]

end Sys2Proof.Machine

/-! PROOF. What the platform's reset leaves, and what two encryptions under one keystream give away
(70_reset_and_hazards.md R300, R312; 10_state.md R54; 41_ctr_engine.md R141). -/

namespace Sys2Proof.Machine

open Sys2Proof

/-- After a platform reset every register reads as at `State.reset`: none of them shows what the event keeps. -/
theorem readReg_resetBlock (s : State) (r : Reg) : readReg (resetBlock s) r = readReg State.reset r := by
  cases r <;> rfl

/-- After a platform reset every buffer byte is the next draw (10_state.md R54). -/
theorem readByte_resetBlock (s : State) (a : Nat) : readByte (resetBlock s) a = Config.resetDraw (s.draws + 1) a :=
  rfl

/-- Settles O7: the step is `resetBlock`, whose registers are those of `State.reset` and whose bytes are draws. -/
theorem resetEventClearsTheBlock : Obligations.ResetEventClearsTheBlock := by
  intro s rest hp
  have ⟨hzero, hkeyed⟩ := registersReadZeroAfterReset
  exact ⟨resetBlock (s.setPending rest), step_pending hp, fun r => (readReg_resetBlock _ r).trans (hzero r), hkeyed,
    readByte_resetBlock _, rfl, rfl⟩

/-- Settles O41: the keystream byte is the same in both ciphertexts, so it cancels. -/
theorem keystreamReuseCancels : Obligations.KeystreamReuseCancels := by
  intro s s' t t' L p p' hL hL' hp hp' hblock hpL hpL' hK hN henc henc' k hk
  obtain ⟨_, hs, -, -, hcipher, -⟩ := ctrEncryptWritesTheCiphertext s L p hL hp hblock hpL
  obtain ⟨_, hs', -, -, hcipher', -⟩ := ctrEncryptWritesTheCiphertext s' L p' hL' hp' hblock hpL'
  cases henc.symm.trans hs
  cases henc'.symm.trans hs'
  rw [hcipher k hk, hcipher' k hk, keystreamByte_congr hK hN, BitVec.xor_assoc, xor_xor_cancel_comm_assoc]

end Sys2Proof.Machine
